-- ==== Sys2Proof/Word.lean ====
section
/-! DEFINITION. The widths of the block: bytes, mode and state codes, and the three selector words
(00_scope.md R8, 10_state.md R20 to R37, 30_encoding.md R69 to R72). -/

namespace Sys2Proof

/-- A byte: bit 0 is the least significant bit (00_scope.md R8). -/
abbrev Byte := BitVec 8

/-- The 3-bit state code of `rx_st` and `tx_st` (10_state.md R21, R31). -/
abbrev StCode := BitVec 3

/-- The 2-bit code of `rx_mode` and `tx_mode` (10_state.md R20, R30). -/
abbrev ModeCode := BitVec 2

/-- An RXB selector word: ST(7:5) M Z L C R (30_encoding.md R69). -/
abbrev RxbWord := BitVec 8

/-- A TXB selector word: ST(4:2) L E (30_encoding.md R71). -/
abbrev TxbWord := BitVec 5

/-- A CTL code K (30_encoding.md R72). -/
abbrev CtlCode := BitVec 4

end Sys2Proof
end

