-- ==== Sys2Proof/Config.lean ====
section
/-! DEFINITION. The parameters of the block, its fixed literals, the codes of its control registers, the
host's moves and answers, and the free values (00_scope.md R6, 41_checksum.md R104, 10_state.md R20,
R21, R31, 60_exceptions.md R171, 93_implementation_defined.md section 1). -/

namespace Sys2Proof

/-- The CRC-8 algorithm, parameter `CRC8_ALGO` (00_scope.md R6, 41_checksum.md R104). -/
structure Crc8Algo where
  poly   : Byte
  init   : Byte
  refin  : Bool
  refout : Bool
  xorout : Byte
  deriving DecidableEq, Repr, Inhabited

/-- The default of `CRC8_ALGO` (00_scope.md R6). PRESUMED: the spec takes it from general knowledge
(93_implementation_defined.md G1); log 19. -/
def Crc8Algo.dflt : Crc8Algo :=
  { poly := 0x07, init := 0x00, refin := false, refout := false, xorout := 0x00 }

/-- The two parameters a model takes: the route-table size N and `CRC8_ALGO` (00_scope.md R6). -/
structure Config where
  n    : Nat
  algo : Crc8Algo
  deriving DecidableEq, Repr, Inhabited

/-- START, fixed 0xAA (00_scope.md R6). -/
abbrev Config.START : Byte := 0xAA

/-- MAXLEN, fixed 255 (00_scope.md R6). -/
abbrev Config.MAXLEN : Nat := 255

/-- MINLEN, fixed 1 (00_scope.md R6). -/
abbrev Config.MINLEN : Nat := 1

/-- The number of elements of `rx_buf` and of `tx_buf` (10_state.md R29, R37). -/
abbrev Config.BUFLEN : Nat := 255

/-! Codes of `rx_mode` and `tx_mode` (10_state.md R20, R30). -/

abbrev Mode.RUNNING : ModeCode := 0
abbrev Mode.STOPPED : ModeCode := 1
abbrev Mode.FAULTED : ModeCode := 2
/-- Encoding 3 is unused (10_state.md R20). -/
abbrev Mode.UNUSED : ModeCode := 3

/-! Codes of `rx_st` (10_state.md R21); 5, 6 and 7 are reserved. -/

abbrev RxSt.AWAIT_START : StCode := 0
abbrev RxSt.READ_ADDRESS : StCode := 1
abbrev RxSt.READ_LENGTH : StCode := 2
abbrev RxSt.READ_PAYLOAD : StCode := 3
abbrev RxSt.READ_CHECKSUM : StCode := 4

/-! Codes of `tx_st` (10_state.md R31); 6 and 7 are reserved. -/

abbrev TxSt.TX_IDLE : StCode := 0
abbrev TxSt.TX_START : StCode := 1
abbrev TxSt.TX_ADDR : StCode := 2
abbrev TxSt.TX_LEN : StCode := 3
abbrev TxSt.TX_PAYLOAD : StCode := 4
abbrev TxSt.TX_CRC : StCode := 5

/-- An endpoint's answer to `StreamWrite(a, p)`: OK, or FAULT with the host's choice k of how long a
prefix of p was appended (00_scope.md R11, 42_router.md R118). -/
inductive WriteAnswer where
  | ok
  | fault (k : Nat)
  deriving DecidableEq, Repr, Inhabited

/-- An endpoint's answer to `StreamRead(a, c)`: OK, or FAULT with the host's choice k of how many head
bytes are lost (00_scope.md R11, 44_outbound_writer.md R135). -/
inductive ReadAnswer where
  | ok
  | fault (k : Nat)
  deriving DecidableEq, Repr, Inhabited

/-- What can come next (00_scope.md R7): a turn of RX or of TX with the host's answers of that step, a
CTL code (RESET, SET_STOP and the link faults are the host's), or another action of the host
contract (60_exceptions.md R171). `tx pick r`: TX's turn, endpoint `pick` preferred by arbitration
(44_outbound_writer.md R148), the endpoint's answer to StreamRead being `r`. -/
inductive Move where
  | rx (answer : WriteAnswer)
  | tx (pick : Nat) (answer : ReadAnswer)
  | ctl (k : CtlCode)
  | appendLinkIn (bytes : List Byte)
  | drainLinkOut (count : Nat)
  | appendSout (a : Nat) (bytes : List Byte)
  | readModes
  | configure (c : Config)
  | closeLink
  | releaseEndpoints
  deriving DecidableEq, Repr, Inhabited

/-- FREE VALUE: a byte of a register or a buffer element that RESET leaves unspecified
(70_reset_and_hazards.md R175); log 2. -/
opaque Config.freeByte : Nat → Byte

/-- FREE VALUE: the move that comes next where `agenda` names none (00_scope.md R7,
93_implementation_defined.md I13, I14); log 4. -/
opaque Config.freeMove : Nat → Move

end Sys2Proof
end

