-- ==== Sys2Proof/Syntax.lean ====
section
/-! DEFINITION. The instructions: one constructor for each row of spec/opcode_table.json, and the selector
words of the three formats (30_encoding.md R69 to R76). No selector carries an operand (R77). -/

namespace Sys2Proof

/-- The step rules of the block, in the opcode table's order. The selector word carries only the choice
of rule, so no constructor has a field (30_encoding.md R77). -/
inductive Instr where
  | inDrop
  | inSof
  | inAddr
  | inLen0
  | inLen
  | inPay
  | inPaylast
  | inCrcbad
  | inDeliver
  | inUnroutable
  | rxReservedSt5
  | rxReservedSt67
  | outFetch
  | outSfault
  | outStart
  | outAddr
  | outLen
  | outPay
  | outPaylast
  | outCrc
  | txReserved
  | reset
  | setStop
  | rxIncomplete
  | rxHalt
  | rxLinkFault
  | txHalt
  | txLinkFault
  deriving DecidableEq, Repr, Inhabited

/-- A selector word in its format (30_encoding.md R69, R71, R72). -/
inductive Selector where
  | rxb (w : RxbWord)
  | txb (w : TxbWord)
  | ctl (k : CtlCode)
  deriving DecidableEq, Repr

/-- One row of an opcode map: a word w matches when `w & mask = pattern` (30_encoding.md R73 to R75). -/
structure OpRow (width : Nat) where
  pattern : BitVec width
  mask    : BitVec width
  instr   : Instr
  deriving DecidableEq, Repr

end Sys2Proof
end

