-- ==== Sys2Proof/WellFormed.lean ====
section
/-! DEFINITION. What makes an instruction, a configuration and a host move well formed; of a selector word
Decode.lean says it, beside the opcode maps. -/

namespace Sys2Proof

/-- A well-formed instruction names a step of the block: the reserved rows name none
(30_encoding.md R76, 40_frame_codec.md R92, 44_outbound_writer.md R144). -/
def Instr.wf : Instr → Bool
  | .rxReservedSt5 => false
  | .rxReservedSt67 => false
  | .txReserved => false
  | _ => true

/-- The steps RX chooses itself (43_inbound_reader.md R127): all its steps but RX_LINK_FAULT. -/
def Instr.ofRx : Instr → Bool
  | .inDrop | .inSof | .inAddr | .inLen0 | .inLen | .inPay | .inPaylast | .inCrcbad | .inDeliver
  | .inUnroutable | .rxIncomplete | .rxHalt => true
  | _ => false

/-- The steps TX chooses itself (44_outbound_writer.md R150): all its steps but TX_LINK_FAULT. -/
def Instr.ofTx : Instr → Bool
  | .outFetch | .outSfault | .outStart | .outAddr | .outLen | .outPay | .outPaylast | .outCrc | .txHalt => true
  | _ => false

/-- 0 ≤ N ≤ 256 (00_scope.md R6). -/
def Config.wf (c : Config) : Bool := c.n ≤ 256

/-- The moves of the host contract under configuration c: an append goes to one of the endpoints
0..N−1, a configuration is in range, a CTL code names a step (60_exceptions.md R171). -/
def Move.wf (c : Config) : Move → Bool
  | .ctl k => k.toNat ≤ 6
  | .appendSout a _ => a < c.n
  | .configure c' => c'.wf
  | _ => true

end Sys2Proof
end

