-- ==== Sys2Proof/Decode.lean ====
section
/-! DEFINITION. The fields of the selector words and which words can be formed, the three opcode maps as tables,
the decoder that reads them and the encoder
(30_encoding.md R73 to R76; spec/opcode_table.json). -/

namespace Sys2Proof

/-- ST of an RXB word, bits 7:5 (30_encoding.md R69). -/
def RxbWord.st (w : RxbWord) : StCode := w.extractLsb' 5 3

/-- ST of a TXB word, bits 4:2 (30_encoding.md R71). -/
def TxbWord.st (w : TxbWord) : StCode := w.extractLsb' 2 3

/-- The RXB words that can be formed: a condition bit is set only in the state that evaluates it
(30_encoding.md R69), and ST is no reserved code (R76). -/
def RxbWord.formable (w : RxbWord) : Bool :=
  (RxbWord.st w).toNat ≤ 4
    && (!w.getLsbD 4 || RxbWord.st w == RxSt.AWAIT_START)
    && (!w.getLsbD 3 || RxbWord.st w == RxSt.READ_LENGTH)
    && (!w.getLsbD 2 || RxbWord.st w == RxSt.READ_PAYLOAD)
    && (!w.getLsbD 1 || RxbWord.st w == RxSt.READ_CHECKSUM)
    && (!w.getLsbD 0 || RxbWord.st w == RxSt.READ_CHECKSUM)

/-- The TXB words that can be formed (30_encoding.md R71, R76). -/
def TxbWord.formable (w : TxbWord) : Bool :=
  (TxbWord.st w).toNat ≤ 5
    && (!w.getLsbD 1 || TxbWord.st w == TxSt.TX_PAYLOAD)
    && (!w.getLsbD 0 || TxbWord.st w == TxSt.TX_IDLE)

/-- A well-formed selector: a word that can be formed, or a CTL code that names a step
(30_encoding.md R73 to R76). -/
def Selector.wf : Selector → Bool
  | .rxb w => RxbWord.formable w
  | .txb w => TxbWord.formable w
  | .ctl k => k.toNat ≤ 6

/-- Why a word names no step. -/
inductive DecodeError where
  /-- a CTL code of 0x7 to 0xF (30_encoding.md R76) -/
  | reservedCtl (k : CtlCode)
  /-- a word that matches no row of its map: no RXB or TXB word does -/
  | noRow
  deriving DecidableEq, Repr

/-- w matches the row's pattern under its mask. -/
def OpRow.hits {width : Nat} (r : OpRow width) (w : BitVec width) : Bool :=
  (w &&& r.mask) == r.pattern

/-- The RXB decode map (30_encoding.md R73), RX_RESERVED as its two rows of the opcode table. -/
def rxbRows : List (OpRow 8) :=
  [ ⟨0x00, 0xF0, .inDrop⟩, ⟨0x10, 0xF0, .inSof⟩, ⟨0x20, 0xE0, .inAddr⟩, ⟨0x48, 0xE8, .inLen0⟩,
    ⟨0x40, 0xE8, .inLen⟩, ⟨0x60, 0xE4, .inPay⟩ ] ++
  [ ⟨0x64, 0xE4, .inPaylast⟩, ⟨0x80, 0xE2, .inCrcbad⟩, ⟨0x83, 0xE3, .inDeliver⟩,
    ⟨0x82, 0xE3, .inUnroutable⟩, ⟨0xA0, 0xE0, .rxReservedSt5⟩, ⟨0xC0, 0xC0, .rxReservedSt67⟩ ]

/-- The TXB decode map (30_encoding.md R74). -/
def txbRows : List (OpRow 5) :=
  [ ⟨0x00, 0x1D, .outFetch⟩, ⟨0x01, 0x1D, .outSfault⟩, ⟨0x04, 0x1C, .outStart⟩, ⟨0x08, 0x1C, .outAddr⟩,
    ⟨0x0C, 0x1C, .outLen⟩ ] ++
  [ ⟨0x10, 0x1E, .outPay⟩, ⟨0x12, 0x1E, .outPaylast⟩, ⟨0x14, 0x1C, .outCrc⟩, ⟨0x18, 0x18, .txReserved⟩ ]

/-- The CTL decode map (30_encoding.md R72, R75). -/
def ctlRows : List (OpRow 4) :=
  [ ⟨0x0, 0xF, .reset⟩, ⟨0x1, 0xF, .setStop⟩, ⟨0x2, 0xF, .rxIncomplete⟩, ⟨0x3, 0xF, .rxHalt⟩ ] ++
  [ ⟨0x4, 0xF, .rxLinkFault⟩, ⟨0x5, 0xF, .txHalt⟩, ⟨0x6, 0xF, .txLinkFault⟩ ]

/-- The instruction of the row that w matches, if any. -/
def lookupRow {width : Nat} (rows : List (OpRow width)) (w : BitVec width) : Option Instr :=
  (rows.find? (fun r => r.hits w)).map OpRow.instr

/-- Decode an RXB word (30_encoding.md R73). Every word has a row. -/
def decodeRxb (w : RxbWord) : Option Instr := lookupRow rxbRows w

/-- Decode a TXB word (30_encoding.md R74). Every word has a row. -/
def decodeTxb (w : TxbWord) : Option Instr := lookupRow txbRows w

/-- Decode a CTL code (30_encoding.md R75); 0x7 to 0xF name no step (R76). -/
def decodeCtl (k : CtlCode) : Option Instr := lookupRow ctlRows k

/-- Decode a selector in its format, rejecting by name. -/
def decode : Selector → Except DecodeError Instr
  | .rxb w => match decodeRxb w with
    | some i => .ok i
    | none => .error .noRow
  | .txb w => match decodeTxb w with
    | some i => .ok i
    | none => .error .noRow
  | .ctl k => match decodeCtl k with
    | some i => .ok i
    | none => .error (.reservedCtl k)

/-- The selector of an instruction, its don't-care bits 0 (30_encoding.md R73 to R75). -/
def encode : Instr → Selector
  | .inDrop => .rxb 0b00000000
  | .inSof => .rxb 0b00010000
  | .inAddr => .rxb 0b00100000
  | .inLen0 => .rxb 0b01001000
  | .inLen => .rxb 0b01000000
  | .inPay => .rxb 0b01100000
  | .inPaylast => .rxb 0b01100100
  | .inCrcbad => .rxb 0b10000000
  | .inDeliver => .rxb 0b10000011
  | .inUnroutable => .rxb 0b10000010
  | .rxReservedSt5 => .rxb 0b10100000
  | .rxReservedSt67 => .rxb 0b11000000
  | .outFetch => .txb 0b00000
  | .outSfault => .txb 0b00001
  | .outStart => .txb 0b00100
  | .outAddr => .txb 0b01000
  | .outLen => .txb 0b01100
  | .outPay => .txb 0b10000
  | .outPaylast => .txb 0b10010
  | .outCrc => .txb 0b10100
  | .txReserved => .txb 0b11000
  | .reset => .ctl 0x0
  | .setStop => .ctl 0x1
  | .rxIncomplete => .ctl 0x2
  | .rxHalt => .ctl 0x3
  | .rxLinkFault => .ctl 0x4
  | .txHalt => .ctl 0x5
  | .txLinkFault => .ctl 0x6

/-- A byte whose format is not said. The three formats number their words from 0, so one number can be a
word of several. DESIGN CHOICE (log 14): the byte is read in the first of RXB, TXB, CTL that can FORM
it (30_encoding.md R69, R71, R72), and else by the RXB map, which has a row for every byte. -/
def decodeUntagged (w : Byte) : Option Instr :=
  if RxbWord.formable w then decodeRxb w
  else if w.toNat < 32 && (TxbWord.formable (w.setWidth 5) || (TxbWord.st (w.setWidth 5)).toNat ≥ 6) then
    decodeTxb (w.setWidth 5)
  else if w.toNat ≤ 6 then decodeCtl (w.setWidth 4)
  else decodeRxb w

/-- The instruction that the decoder reads from a word of the opcode table: 4 bits are a CTL code, 5 bits a
TXB word, 8 bits an RXB word (30_encoding.md R69, R71, R72), or, since a whole byte may also hold a
shorter word, what `decodeUntagged` says (log 14). -/
def decodeTableWord (nbits w : Nat) : Option Instr :=
  if nbits = 4 then if w < 16 then decodeCtl (BitVec.ofNat 4 w) else none
  else if nbits = 5 then if w < 32 then decodeTxb (BitVec.ofNat 5 w) else none
  else if nbits = 8 then if w < 256 then decodeUntagged (BitVec.ofNat 8 w) else none
  else none

end Sys2Proof
end

