-- ==== Sys2Proof/Machine/State.lean ====
section
/-! DEFINITION. The state of the block and of the environment it talks to, the event records, the reasons a
step can stop, and the state right after reset (10_state.md, 60_exceptions.md R152 to R155,
70_reset_and_hazards.md R173). -/

namespace Sys2Proof.Machine

/-- The direction codes of an event record: RX 0, TX 1 (60_exceptions.md R154). -/
inductive Dir where
  | rx
  | tx
  deriving DecidableEq, Repr, Inhabited

/-- An event record. Each constructor has exactly the fields that R154 lists for its code; a field not
listed is absent and has no value (60_exceptions.md R154, R155). Code and field views: Events.lean. -/
inductive Event where
  /-- MALFORMED_FRAME, reason ZERO_LENGTH, dir RX (R156 (1)) -/
  | malformedZeroLength (addr : Byte)
  /-- MALFORMED_FRAME, reason CHECKSUM_MISMATCH, dir RX (R156 (2)) -/
  | malformedChecksum (addr len expected received : Byte)
  /-- UNROUTABLE_ADDRESS, dir RX (R157) -/
  | unroutableAddress (addr len : Byte)
  /-- OVERSIZED_PAYLOAD with the rejected length; no step raises it (R158) -/
  | oversizedPayload (len : Nat)
  /-- LOGICAL_STREAM_FAULT (R159) -/
  | logicalStreamFault (dir : Dir) (addr : Byte)
  /-- LINK_FAULT (R161) -/
  | linkFault (dir : Dir)
  deriving DecidableEq, Repr, Inhabited

/-- A payload buffer: cells at strictly rising indices, none holding what an unlisted index reads as
(10_state.md R29, R37; log 3). -/
abbrev Memory := List Host.Cell

/-- A family of byte queues indexed by endpoint, in the same canonical form (10_state.md R43). -/
abbrev Streams := List (Nat × List Byte)

/-- How far the host's teardown has gone (70_reset_and_hazards.md R180). The model's own; log 13. -/
inductive Phase where
  | up
  | linkClosed
  | released
  deriving DecidableEq, Repr, Inhabited

/-- Why the model stops with a fault. Every one is safe: the block has no such behaviour. -/
inductive Fault where
  /-- ReservedState: an RXB word with ST 5 to 7 (raised by RX_RESERVED_ST5, RX_RESERVED_ST67) or a TXB
  word with ST 6 or 7 (TX_RESERVED). No reachable state forms one (30_encoding.md R76). Safe. -/
  | reservedState (dir : Dir)
  /-- A turn of an agent whose mode holds the unused encoding 3 (93_implementation_defined.md I7).
  Unreachable. Raised by a turn of RX or TX. Safe. -/
  | reservedMode (dir : Dir)
  /-- A payload step with a count outside 1 ≤ rem ≤ len, whose element `len − rem` no buffer has
  (20_memory.md R46, 10_state.md R38, R39). Unreachable. Raised by IN_PAY, IN_PAYLAST, OUT_PAY and
  OUT_PAYLAST; log 10. Safe. -/
  | payloadIndex (dir : Dir)
  deriving DecidableEq, Repr

/-- Why the model refuses. Every one is safe: the model gives no next state. -/
inductive Refusal where
  /-- The instruction has no meaning in the model. Raised by no arm of `exec`. Safe. -/
  | notModelled (mnemonic : String)
  /-- `exec` was handed an instruction whose enabling condition does not hold, so that the spec gives it
  no step (R80, R124, R125, R126, R133, R142, R143). `step` never hands it one; log 8. Safe. -/
  | notEnabled
  /-- The host issued a CTL code 0x7 to 0xF, which names no step (30_encoding.md R76). Safe. -/
  | reservedCtl (k : CtlCode)
  /-- N or CRC8_ALGO was to change while RESET is not held (70_reset_and_hazards.md R181). Safe. -/
  | configurationChange
  /-- A host action outside the host contract (60_exceptions.md R171, 93_implementation_defined.md I19). Safe. -/
  | outsideContract
  deriving DecidableEq, Repr

/-- The whole state. The names are the spec's. -/
structure State where
  /-- N and CRC8_ALGO: configuration, not state of the block (10_state.md R17; log 6) -/
  cfg : Config
  /-- the shutdown request (R18) -/
  stop : Bool
  /-- R20 -/
  rx_mode : ModeCode
  /-- R21 -/
  rx_st : StCode
  /-- the stop-sample point (R22) -/
  rx_poll : Bool
  /-- R23 -/
  rx_addr : Byte
  /-- R24 -/
  rx_len : Byte
  /-- R25 -/
  rx_rem : Byte
  /-- R26 -/
  rx_crc : Byte
  /-- R29 -/
  rx_buf : Memory
  /-- R30 -/
  tx_mode : ModeCode
  /-- R31 -/
  tx_st : StCode
  /-- R32 -/
  tx_addr : Byte
  /-- R33 -/
  tx_len : Byte
  /-- R34 -/
  tx_rem : Byte
  /-- R35 -/
  tx_crc : Byte
  /-- R37 -/
  tx_buf : Memory
  /-- bytes the far end has sent and RX has not consumed (R42) -/
  link_in : List Byte
  /-- bytes TX has sent, oldest first, less what the host drained (R42) -/
  link_out : List Byte
  /-- the bytes delivered to each endpoint (R43) -/
  sin : Streams
  /-- the outbound bytes each endpoint holds (R43) -/
  sout : Streams
  /-- the event log, oldest first (R44) -/
  log : List Event
  /-- the model's own: the moves that come next, oldest first (R7; log 4) -/
  agenda : List Move
  /-- the model's own: the counter the free values are applied to (log 2, log 4) -/
  free : Nat
  /-- the model's own: the answer to a StreamWrite of the step in hand (R11; log 5) -/
  w_ans : WriteAnswer
  /-- the model's own: the answer to a StreamRead of the step in hand (R11; log 5) -/
  r_ans : ReadAnswer
  /-- the model's own: the endpoint arbitration prefers in the step in hand (R148; log 5) -/
  pick : Nat
  /-- the model's own: RESET is held, no step has come after it (R166, R177; log 7) -/
  held : Bool
  /-- the model's own: how far the teardown has gone (R180; log 13) -/
  phase : Phase
  deriving DecidableEq, Repr

/-- What a step answers. -/
abbrev Result := Host.Outcome State Fault Refusal

/-- The state right after reset (70_reset_and_hazards.md R173). R175 leaves the data registers and the
buffers unspecified: DESIGN CHOICE 0 (log 1, log 3). The queues are a premise of the run: DESIGN
CHOICE empty (log 12). N is open: DESIGN CHOICE 1 (log 6). -/
def State.reset : State where
  cfg := { n := 1, algo := Crc8Algo.dflt }
  stop := false
  rx_mode := Mode.RUNNING
  rx_st := RxSt.AWAIT_START
  rx_poll := true
  rx_addr := 0
  rx_len := 0
  rx_rem := 0
  rx_crc := 0
  rx_buf := []
  tx_mode := Mode.RUNNING
  tx_st := TxSt.TX_IDLE
  tx_addr := 0
  tx_len := 0
  tx_rem := 0
  tx_crc := 0
  tx_buf := []
  link_in := []
  link_out := []
  sin := []
  sout := []
  log := []
  agenda := []
  free := 0
  w_ans := .ok
  r_ans := .ok
  pick := 0
  held := true
  phase := .up

end Sys2Proof.Machine
end

