-- ==== Sys2Proof/Machine/Ops.lean ====
section
/-! DEFINITION. The named operations over memory, queues and registers: the payload buffers, the primitives of
00_scope.md R11, raising an event (the block's whole exception entry, 60_exceptions.md R153, R160), the
link fault, and what RESET writes. -/

namespace Sys2Proof.Machine

/-! ### Sparse tables in canonical form -/

/-- The value at index a; an unlisted index reads as d. -/
def tableGet {α : Type} (d : α) : List (Nat × α) → Nat → α
  | [], _ => d
  | (k, v) :: t, a => if a = k then v else if a < k then d else tableGet d t a

/-- Write v at index a, keeping the indices rising and listing no value d. -/
def tableSet {α : Type} [DecidableEq α] (d : α) : List (Nat × α) → Nat → α → List (Nat × α)
  | [], a, v => if v = d then [] else [(a, v)]
  | (k, w) :: t, a, v =>
    if a < k then (if v = d then (k, w) :: t else (a, v) :: (k, w) :: t)
    else if a = k then (if v = d then t else (a, v) :: t)
    else (k, w) :: tableSet d t a v

/-- The canonical form: indices strictly rising, no entry equal to what an unlisted index reads as. -/
abbrev tableWf {α : Type} (d : α) (t : List (Nat × α)) : Prop :=
  t.Pairwise (fun x y => x.1 < y.1) ∧ ∀ c ∈ t, c.2 ≠ d

/-! ### The payload buffers (10_state.md R29, R37) -/

/-- What a buffer element that nothing has written reads as. The spec leaves it unspecified (R175).
DESIGN CHOICE 0x00; log 3. -/
def Memory.unlisted : Byte := 0x00

/-- The canonical form of a buffer. -/
abbrev Memory.wf (m : Memory) : Prop := tableWf Memory.unlisted m

/-- `buf[i]` (00_scope.md R10). -/
def Memory.read (m : Memory) (i : Nat) : Byte := tableGet Memory.unlisted m i

/-- `buf[i] <- v` (00_scope.md R10). -/
def Memory.write (m : Memory) (i : Nat) (v : Byte) : Memory := tableSet Memory.unlisted m i v

/-- `buf[i..i+len(q)) <- q`. -/
def Memory.writeFrom (m : Memory) (i : Nat) : List Byte → Memory
  | [] => m
  | v :: q => Memory.writeFrom (Memory.write m i v) (i + 1) q

/-- `buf[0..c)`. -/
def Memory.upTo (m : Memory) (c : Nat) : List Byte := (List.range c).map (Memory.read m)

/-! ### The stream queues (10_state.md R43) -/

/-- The canonical form of a family of queues: an unlisted endpoint's queue is empty. -/
abbrev Streams.wf (t : Streams) : Prop := tableWf ([] : List Byte) t

/-- The queue of endpoint a. -/
def Streams.get (t : Streams) (a : Nat) : List Byte := tableGet [] t a

/-- Replace the queue of endpoint a. -/
def Streams.set (t : Streams) (a : Nat) (q : List Byte) : Streams := tableSet [] t a q

/-! ### The primitives of 00_scope.md R11 -/

/-- `LinkAvail()`: `link_in` is non-empty. -/
def State.linkAvail (s : State) : Bool := !s.link_in.isEmpty

/-- `LinkSend(b)`: append b to `link_out`. The link always accepts (44_outbound_writer.md R133). -/
def State.linkSend (s : State) (b : Byte) : State := { s with link_out := s.link_out ++ [b] }

/-- `StreamAvail(a)`: how many outbound bytes endpoint a holds. -/
def State.streamAvail (s : State) (a : Nat) : Nat := (s.sout.get a).length

/-- Append p to `sin[a]`: what an endpoint takes in. -/
def State.appendSin (s : State) (a : Nat) (p : List Byte) : State :=
  { s with sin := s.sin.set a (s.sin.get a ++ p) }

/-- Remove the c oldest bytes of `sout[a]` (20_memory.md R52). -/
def State.dropSout (s : State) (a c : Nat) : State :=
  { s with sout := s.sout.set a ((s.sout.get a).drop c) }

/-- `Emit(e)`, `raise e`: append the record to the event log, and nothing else. This is the whole of
exception entry: nothing is saved, no vector is taken, and the raising rule states every other
change (00_scope.md R11, 60_exceptions.md R153, R155, R160). There is no return operation (R164). -/
def State.raise (s : State) (e : Event) : State := { s with log := s.log ++ [e] }

/-- `rx_st <- AWAIT_START; rx_poll <- 1`: what each of the four completing steps does
(40_frame_codec.md R81, R85, R89 to R91). -/
def State.toAwaitStart (s : State) : State := { s with rx_st := RxSt.AWAIT_START, rx_poll := true }

/-- LinkFault: raise the event and make the direction's mode FAULTED; the other direction is not touched
(60_exceptions.md R161, 43_inbound_reader.md R126, 44_outbound_writer.md R143). -/
def State.linkFault (s : State) : Dir → State
  | .rx => { s.raise (.linkFault .rx) with rx_mode := Mode.FAULTED }
  | .tx => { s.raise (.linkFault .tx) with tx_mode := Mode.FAULTED }

/-! ### RESET (70_reset_and_hazards.md R173, R175) -/

/-- A buffer whose elements are unspecified: element i is the free value of index f + i (R175; log 2). -/
def Memory.unspecified (f : Nat) : Memory :=
  Memory.writeFrom [] 0 ((List.range Config.BUFLEN).map (fun i => Config.freeByte (f + i)))

/-- How many free values one RESET takes: eight registers and two buffers. -/
def resetFreeCount : Nat := 8 + Config.BUFLEN + Config.BUFLEN

/-- What RESET writes: the table of R173; every other register of the block becomes unspecified (R175; log
2); the host-owned queues and the configuration stay. RESET is held from here to the next step
(R166; log 7) and a torn down environment counts as up again (R178; log 13). -/
def State.applyReset (s : State) : State :=
  { s with
    stop := false
    rx_mode := Mode.RUNNING
    rx_st := RxSt.AWAIT_START
    rx_poll := true
    tx_mode := Mode.RUNNING
    tx_st := TxSt.TX_IDLE
    log := []
    rx_addr := Config.freeByte s.free
    rx_len := Config.freeByte (s.free + 1)
    rx_rem := Config.freeByte (s.free + 2)
    rx_crc := Config.freeByte (s.free + 3)
    tx_addr := Config.freeByte (s.free + 4)
    tx_len := Config.freeByte (s.free + 5)
    tx_rem := Config.freeByte (s.free + 6)
    tx_crc := Config.freeByte (s.free + 7)
    rx_buf := Memory.unspecified (s.free + 8)
    tx_buf := Memory.unspecified (s.free + 8 + Config.BUFLEN)
    free := s.free + resetFreeCount
    held := true
    phase := .up }

/-- A step of an agent or a run-time action of the host ends the time in which RESET is held
(60_exceptions.md R166, 70_reset_and_hazards.md R177; log 7). -/
def State.release (s : State) : State := { s with held := false }

end Sys2Proof.Machine
end

