-- ==== Sys2Proof/Machine/Events.lean ====
section
/-! DEFINITION. The numeric codes and the fields of an event record (60_exceptions.md R154, R155), and what the
host can read of the block (10_state.md R41). -/

namespace Sys2Proof.Machine

/-- The direction code: RX 0, TX 1 (60_exceptions.md R154). -/
def Dir.code : Dir → BitVec 1
  | .rx => 0
  | .tx => 1

/-- The event code (60_exceptions.md R154). 0x00 and 0x06 to 0xFF are unused. -/
def Event.code : Event → Byte
  | .malformedZeroLength _ => 0x01
  | .malformedChecksum _ _ _ _ => 0x01
  | .unroutableAddress _ _ => 0x02
  | .oversizedPayload _ => 0x03
  | .logicalStreamFault _ _ => 0x04
  | .linkFault _ => 0x05

/-- `dir`; OVERSIZED_PAYLOAD has none (60_exceptions.md R154). -/
def Event.dir : Event → Option Dir
  | .malformedZeroLength _ => some .rx
  | .malformedChecksum _ _ _ _ => some .rx
  | .unroutableAddress _ _ => some .rx
  | .oversizedPayload _ => none
  | .logicalStreamFault d _ => some d
  | .linkFault d => some d

/-- `addr`, where the code lists it (60_exceptions.md R154). -/
def Event.addr : Event → Option Byte
  | .malformedZeroLength a => some a
  | .malformedChecksum a _ _ _ => some a
  | .unroutableAddress a _ => some a
  | .oversizedPayload _ => none
  | .logicalStreamFault _ a => some a
  | .linkFault _ => none

/-- `len`, where the code lists it (60_exceptions.md R154); a Nat, since the rejected length of
OVERSIZED_PAYLOAD can exceed a byte (log 16). -/
def Event.len : Event → Option Nat
  | .malformedZeroLength _ => none
  | .malformedChecksum _ l _ _ => some l.toNat
  | .unroutableAddress _ l => some l.toNat
  | .oversizedPayload l => some l
  | .logicalStreamFault _ _ => none
  | .linkFault _ => none

/-- `reason`: ZERO_LENGTH 0x01, CHECKSUM_MISMATCH 0x02, of MALFORMED_FRAME only (60_exceptions.md R154). -/
def Event.reason : Event → Option Byte
  | .malformedZeroLength _ => some 0x01
  | .malformedChecksum _ _ _ _ => some 0x02
  | .unroutableAddress _ _ => none
  | .oversizedPayload _ => none
  | .logicalStreamFault _ _ => none
  | .linkFault _ => none

/-- `expected`, of CHECKSUM_MISMATCH only (60_exceptions.md R154). -/
def Event.expected : Event → Option Byte
  | .malformedChecksum _ _ e _ => some e
  | .malformedZeroLength _ => none
  | .unroutableAddress _ _ => none
  | .oversizedPayload _ => none
  | .logicalStreamFault _ _ => none
  | .linkFault _ => none

/-- `received`, of CHECKSUM_MISMATCH only (60_exceptions.md R154). -/
def Event.received : Event → Option Byte
  | .malformedChecksum _ _ _ r => some r
  | .malformedZeroLength _ => none
  | .unroutableAddress _ _ => none
  | .oversizedPayload _ => none
  | .logicalStreamFault _ _ => none
  | .linkFault _ => none

/-- Only LinkFault ends a direction (60_exceptions.md R152, 42_router.md R120). -/
def Event.recoverable : Event → Bool
  | .linkFault _ => false
  | .malformedZeroLength _ => true
  | .malformedChecksum _ _ _ _ => true
  | .unroutableAddress _ _ => true
  | .oversizedPayload _ => true
  | .logicalStreamFault _ _ => true

/-- What the host can read of the block: `rx_mode` and `tx_mode`, and nothing else (10_state.md R41). -/
def State.hostStatus (s : State) : ModeCode × ModeCode := (s.rx_mode, s.tx_mode)

end Sys2Proof.Machine
end

