-- ==== Sys2Proof/Machine/Router.lean ====
section
/-! DEFINITION. The address-based packet router (42_router.md R115 to R122). -/

namespace Sys2Proof.Machine

/-- What `Resolve` answers (42_router.md R116). -/
inductive Route where
  | stream (a : Byte)
  | unroutableAddress (a : Byte)
  deriving DecidableEq, Repr

/-- `Resolve(a)`: Stream(a) when a < N, UnroutableAddress(a) otherwise (42_router.md R116). -/
def resolve (c : Config) (a : Byte) : Route :=
  if a.toNat < c.n then .stream a else .unroutableAddress a

/-- `route_inbound(a, p)`: one StreamWrite, with the answer `w_ans` of the step in hand. OK appends the whole
payload verbatim (42_router.md R117). FAULT raises LogicalStreamFault and appends a prefix shorter
than p, of the length the host chose (R118); the host's k is capped at len(p) − 1 (log 5). -/
def State.routeInbound (s : State) (a : Byte) (p : List Byte) : State :=
  match s.w_ans with
  | .ok => s.appendSin a.toNat p
  | .fault k => (s.appendSin a.toNat (p.take (min k (p.length - 1)))).raise (.logicalStreamFault .rx a)

end Sys2Proof.Machine
end

