-- ==== Sys2Proof/Machine/Codec.lean ====
section
/-! DEFINITION. The frame codec as pure functions: the wire format, Encode, and the decoder's results
(30_encoding.md R63 to R68, 40_frame_codec.md R93, R98, R99, 42_router.md R119). -/

namespace Sys2Proof.Machine

/-- The abstract Frame value (30_encoding.md R64). -/
structure Frame where
  address  : Byte
  length   : Byte
  payload  : List Byte
  checksum : Byte
  deriving DecidableEq, Repr

/-- The Frame invariant of 30_encoding.md R64. -/
def Frame.wf (g : Crc8Algo) (f : Frame) : Bool :=
  f.length.toNat == f.payload.length && 1 ≤ f.length.toNat && f.checksum == crc8 g ([f.address, f.length] ++ f.payload)

/-- The bytes of a frame on the wire (30_encoding.md R63). -/
def Frame.bytes (f : Frame) : List Byte :=
  [Config.START, f.address, f.length] ++ f.payload ++ [f.checksum]

/-- Field extraction from a frame held as bytes (30_encoding.md R64); none where the bytes are no whole
frame of LENGTH+4 bytes that opens with START (R63, R67). -/
def Frame.ofBytes : List Byte → Option Frame
  | b :: a :: l :: rest =>
    if b == Config.START && rest.length == l.toNat + 1 then
      match rest.drop l.toNat with
      | c :: _ => some { address := a, length := l, payload := rest.take l.toNat, checksum := c }
      | [] => none
    else none
  | _ => none

/-- What `Encode` answers: the frame's bytes, or the error value OversizedPayload with the rejected length
(40_frame_codec.md R99, 60_exceptions.md R158). -/
inductive EncodeResult where
  | bytes (bs : List Byte)
  | oversizedPayload (len : Nat)
  deriving DecidableEq, Repr

/-- The frame for address a and payload p, 1 ≤ len(p) ≤ 255 (40_frame_codec.md R99). -/
def frameOf (g : Crc8Algo) (a : Byte) (p : List Byte) : Frame :=
  { address := a, length := BitVec.ofNat 8 p.length, payload := p,
    checksum := crc8 g ([a, BitVec.ofNat 8 p.length] ++ p) }

/-- `Encode(a, p)`, a pure function (40_frame_codec.md R99). `FRAME(a, p)` of 30_encoding.md R79 is this. -/
def encodeFrame (g : Crc8Algo) (a : Byte) (p : List Byte) : EncodeResult :=
  if p.length = 0 ∨ p.length > Config.MAXLEN then .oversizedPayload p.length
  else .bytes (frameOf g a p).bytes

/-- `route_outbound(a, p)`: the frame that the serializer puts on the link (42_router.md R119). -/
def routeOutbound (g : Crc8Algo) (a : Byte) (p : List Byte) : EncodeResult := encodeFrame g a p

/-- The reasons of `Invalid` (40_frame_codec.md R98). -/
inductive InvalidReason where
  | zeroLength
  | checksumMismatch
  deriving DecidableEq, Repr

/-- The decoder's result values (40_frame_codec.md R98). -/
inductive DecodeResult where
  | frame (a : Byte) (p : List Byte)
  | invalid (reason : InvalidReason)
  | incomplete
  deriving DecidableEq, Repr

/-- `rx_buf[0..rx_len)`: the payload that IN_DELIVER hands to the router (40_frame_codec.md R90). -/
def State.rxPayload (s : State) : List Byte := s.rx_buf.upTo s.rx_len.toNat

/-- What the decode call returns when step i is taken from s; none while the call goes on
(40_frame_codec.md R93, 43_inbound_reader.md R123). -/
def State.decodeReturn (s : State) : Instr → Option DecodeResult
  | .inDeliver => some (.frame s.rx_addr s.rxPayload)
  | .inUnroutable => some (.frame s.rx_addr s.rxPayload)
  | .inLen0 => some (.invalid .zeroLength)
  | .inCrcbad => some (.invalid .checksumMismatch)
  | .rxIncomplete => some .incomplete
  | _ => none

/-- How many frames a logical write of M bytes makes: ⌈M/255⌉ (44_outbound_writer.md R146). -/
def chunkCount (m : Nat) : Nat := (m + (Config.MAXLEN - 1)) / Config.MAXLEN

/-- The chunks of a logical write s: chunk i is `s[255·i .. min(255·(i+1), M))` (44_outbound_writer.md R146). -/
def chunksOf (s : List Byte) : List (List Byte) :=
  (List.range (chunkCount s.length)).map (fun i => (s.drop (Config.MAXLEN * i)).take Config.MAXLEN)

end Sys2Proof.Machine
end

