-- ==== Sys2Proof/Machine/Operands.lean ====
section
/-! DEFINITION. The operands of the steps (30_encoding.md R77): the payload element, the endpoint and the
chunk of a fetch attempt. The byte consumed is the head of `link_in` (Rx.lean). -/

namespace Sys2Proof.Machine

/-- The index `len − rem` of the payload element in hand, where 1 ≤ rem ≤ len, as every reachable state has
it (10_state.md R29, R37 to R39); none where no buffer has the element (20_memory.md R46; log 10).
With rem = 1 it is `len − 1`. -/
def payloadIndex (len rem : Byte) : Option Nat :=
  if 1 ≤ rem.toNat ∧ rem.toNat ≤ len.toNat then some (len.toNat - rem.toNat) else none

/-- Endpoint a can be served: a < N and StreamAvail(a) > 0 (44_outbound_writer.md R133). -/
def State.ready (s : State) (a : Nat) : Bool := a < s.cfg.n && 0 < s.streamAvail a

/-- The endpoint of a fetch attempt: the one arbitration prefers where it is ready, else the lowest that is;
none where none is. Which endpoint is open (44_outbound_writer.md R148), and `pick` takes every value
(log 5). -/
def State.fetchEndpoint (s : State) : Option Nat :=
  if s.ready s.pick then some s.pick else (List.range s.cfg.n).find? s.ready

/-- The chunk length c = min(StreamAvail(a), 255) (44_outbound_writer.md R134). -/
def State.chunkLen (s : State) (a : Nat) : Nat := min (s.streamAvail a) Config.MAXLEN

/-- `sout[a][0..c)`: the oldest c bytes (44_outbound_writer.md R134). -/
def State.chunk (s : State) (a : Nat) : List Byte := (s.sout.get a).take (s.chunkLen a)

end Sys2Proof.Machine
end

