-- ==== Sys2Proof/Machine/Flags.lean ====
section
/-! DEFINITION. The condition bits, computed for each step and stored nowhere (10_state.md R27, R36), and the
selector words they form (30_encoding.md R69, R71). -/

namespace Sys2Proof.Machine

/-- M: b is the start marker (10_state.md R27). -/
def condM (b : Byte) : Bool := b == Config.START

/-- Z: b is 0x00 (10_state.md R27). -/
def condZ (b : Byte) : Bool := b == 0x00

/-- L of RX: one payload byte is still expected (10_state.md R27). -/
def State.condRxL (s : State) : Bool := s.rx_rem == 1

/-- C: b is the computed checksum (10_state.md R27). -/
def State.condC (s : State) (b : Byte) : Bool := b == crcFinal s.cfg.algo s.rx_crc

/-- R: the address is routable (10_state.md R27, 42_router.md R116). -/
def State.condR (s : State) : Bool := s.rx_addr.toNat < s.cfg.n

/-- L of TX: one payload byte is still to be sent (10_state.md R36). -/
def State.condTxL (s : State) : Bool := s.tx_rem == 1

/-- E: the endpoint answers FAULT to the StreamRead (10_state.md R36). -/
def State.condE (s : State) : Bool :=
  match s.r_ans with
  | .ok => false
  | .fault _ => true

/-- The RXB word of its fields ST, M, Z, L, C, R (30_encoding.md R69). -/
def packRxb (st : StCode) (m z l c r : Bool) : RxbWord :=
  st ++ BitVec.ofBool m ++ BitVec.ofBool z ++ BitVec.ofBool l ++ BitVec.ofBool c ++ BitVec.ofBool r

/-- The TXB word of its fields ST, L, E (30_encoding.md R71). -/
def packTxb (st : StCode) (l e : Bool) : TxbWord :=
  st ++ BitVec.ofBool l ++ BitVec.ofBool e

/-- The RXB word formed from `rx_st` and the byte b; a condition bit is 0 outside the state that evaluates
it (30_encoding.md R69). -/
def State.rxbWord (s : State) (b : Byte) : RxbWord :=
  packRxb s.rx_st
    (s.rx_st == RxSt.AWAIT_START && condM b)
    (s.rx_st == RxSt.READ_LENGTH && condZ b)
    (s.rx_st == RxSt.READ_PAYLOAD && s.condRxL)
    (s.rx_st == RxSt.READ_CHECKSUM && s.condC b)
    (s.rx_st == RxSt.READ_CHECKSUM && s.condR)

/-- The TXB word formed from `tx_st` (30_encoding.md R71). -/
def State.txbWord (s : State) : TxbWord :=
  packTxb s.tx_st
    (s.tx_st == TxSt.TX_PAYLOAD && s.condTxL)
    (s.tx_st == TxSt.TX_IDLE && s.condE)

end Sys2Proof.Machine
end

