-- ==== Sys2Proof/Machine/Select.lean ====
section
/-! DEFINITION. When a step is enabled, and the selector an agent forms when it takes its turn
(40_frame_codec.md R80, 43_inbound_reader.md R124 to R127, 44_outbound_writer.md R133, R142, R143, R150). -/

namespace Sys2Proof.Machine

/-- An RXB step is enabled (40_frame_codec.md R80). -/
def State.rxbEnabled (s : State) : Bool :=
  s.rx_mode == Mode.RUNNING && s.linkAvail && (!s.rx_poll || !s.stop)

/-- RX_INCOMPLETE is enabled (43_inbound_reader.md R124). -/
def State.rxIncompleteEnabled (s : State) : Bool :=
  s.rx_mode == Mode.RUNNING && !s.rx_poll && !s.linkAvail

/-- RX_HALT is enabled (43_inbound_reader.md R125). -/
def State.rxHaltEnabled (s : State) : Bool :=
  s.rx_mode == Mode.RUNNING && s.rx_poll && s.stop

/-- RX_LINK_FAULT is enabled, where the host signals it (43_inbound_reader.md R126). -/
def State.rxLinkFaultEnabled (s : State) : Bool := s.rx_mode == Mode.RUNNING

/-- A fetch attempt is enabled (44_outbound_writer.md R133). -/
def State.fetchEnabled (s : State) : Bool :=
  s.tx_mode == Mode.RUNNING && s.tx_st == TxSt.TX_IDLE && !s.stop && s.fetchEndpoint.isSome

/-- A byte step of TX is enabled: TX is out of TX_IDLE (44_outbound_writer.md R133). In the reserved states 6
and 7 a word is formed too, and met by its fault (30_encoding.md R76; log 17). -/
def State.txByteEnabled (s : State) : Bool := s.tx_mode == Mode.RUNNING && s.tx_st != TxSt.TX_IDLE

/-- TX_HALT is enabled (44_outbound_writer.md R142). -/
def State.txHaltEnabled (s : State) : Bool :=
  s.tx_mode == Mode.RUNNING && s.tx_st == TxSt.TX_IDLE && s.stop

/-- TX_LINK_FAULT is enabled, where the host signals it (44_outbound_writer.md R143). -/
def State.txLinkFaultEnabled (s : State) : Bool := s.tx_mode == Mode.RUNNING

/-- The selector RX forms on its turn; none where RX waits. The three conditions exclude each other
(43_inbound_reader.md R127). -/
def State.rxSelect (s : State) : Option Selector :=
  if s.rxHaltEnabled then some (.ctl 0x3)
  else if s.rxIncompleteEnabled then some (.ctl 0x2)
  else if s.rxbEnabled then s.link_in.head?.map (fun b => .rxb (s.rxbWord b))
  else none

/-- The selector TX forms on its turn; none where TX waits (44_outbound_writer.md R133, R150). -/
def State.txSelect (s : State) : Option Selector :=
  if s.txHaltEnabled then some (.ctl 0x5)
  else if s.fetchEnabled || s.txByteEnabled then some (.txb s.txbWord)
  else none

/-- A CTL step is enabled: RESET and SET_STOP at any time, the link faults and the agents' own control steps
where their rules say (30_encoding.md R72). An RXB or TXB row is no CTL step. -/
def State.ctlEnabled (s : State) : Instr → Bool
  | .reset => true
  | .setStop => true
  | .rxIncomplete => s.rxIncompleteEnabled
  | .rxHalt => s.rxHaltEnabled
  | .rxLinkFault => s.rxLinkFaultEnabled
  | .txHalt => s.txHaltEnabled
  | .txLinkFault => s.txLinkFaultEnabled
  | _ => false

end Sys2Proof.Machine
end

