-- ==== Sys2Proof/Machine/Ctl.lean ====
section
/-! DEFINITION. The CTL steps: RESET, SET_STOP, and the control steps of the two agents (30_encoding.md R72,
70_reset_and_hazards.md R173, 10_state.md R18, 43_inbound_reader.md R124 to R126,
44_outbound_writer.md R142, R143). -/

namespace Sys2Proof.Machine

/-- A control step: its next state where it is enabled; else the spec gives it no step here (log 8). -/
def ctlStep (enabled : Bool) (t : State) : Result :=
  if enabled then .next t else .refused .notEnabled

/-- RESET (70_reset_and_hazards.md R173), permitted at any time. -/
def execReset (s : State) : Result := .next s.applyReset

/-- SET_STOP (10_state.md R18, 60_exceptions.md R171): `stop <- 1`; a set flag stays set (R162). -/
def execSetStop (s : State) : Result := .next { s with stop := true }

/-- RX_INCOMPLETE (43_inbound_reader.md R124): the decode call returns, the cursor is kept. -/
def execRxIncomplete (s : State) : Result := ctlStep s.rxIncompleteEnabled { s with rx_poll := true }

/-- RX_HALT (43_inbound_reader.md R125): RX honours the stop request. -/
def execRxHalt (s : State) : Result := ctlStep s.rxHaltEnabled { s with rx_mode := Mode.STOPPED }

/-- RX_LINK_FAULT (43_inbound_reader.md R126): a read error or the end of the link source (R132). -/
def execRxLinkFault (s : State) : Result := ctlStep s.rxLinkFaultEnabled (s.linkFault .rx)

/-- TX_HALT (44_outbound_writer.md R142): TX honours the stop request at TX_IDLE. -/
def execTxHalt (s : State) : Result := ctlStep s.txHaltEnabled { s with tx_mode := Mode.STOPPED }

/-- TX_LINK_FAULT (44_outbound_writer.md R143): a write error of the link. -/
def execTxLinkFault (s : State) : Result := ctlStep s.txLinkFaultEnabled (s.linkFault .tx)

end Sys2Proof.Machine
end

