-- ==== Sys2Proof/Machine/Rx.lean ====
section
/-! DEFINITION. The RXB steps: the inbound byte-to-frame state machine (40_frame_codec.md R80 to R92). -/

namespace Sys2Proof.Machine

/-- Taking an RXB step (40_frame_codec.md R80): `b <- LinkRecv()`, form the word, and perform the rule whose row
it matches. The meaning of i: where the step is enabled and the word is i's, b is consumed and `effect`
follows; else the spec gives i no step here (log 8). `effect` gets b and the state after LinkRecv, in
which every register still has its value from before the step (00_scope.md R10). -/
def rxbStep (i : Instr) (s : State) (effect : Byte → State → Result) : Result :=
  match s.link_in with
  | [] => .refused .notEnabled
  | b :: rest =>
    if s.rxbEnabled && decodeRxb (s.rxbWord b) == some i then effect b { s with link_in := rest }
    else .refused .notEnabled

/-- IN_DROP (40_frame_codec.md R82): b is discarded. -/
def execInDrop (s : State) : Result :=
  rxbStep .inDrop s fun _ t => .next { t with rx_poll := false }

/-- IN_SOF (40_frame_codec.md R83): start of frame. -/
def execInSof (s : State) : Result :=
  rxbStep .inSof s fun _ t =>
    .next { t with rx_crc := t.cfg.algo.init, rx_st := RxSt.READ_ADDRESS, rx_poll := false }

/-- IN_ADDR (40_frame_codec.md R84): the address byte; no value is rejected. -/
def execInAddr (s : State) : Result :=
  rxbStep .inAddr s fun b t =>
    .next { t with
      rx_addr := b
      rx_crc := crcUpdate t.cfg.algo t.rx_crc b
      rx_st := RxSt.READ_LENGTH
      rx_poll := false }

/-- IN_LEN0 (40_frame_codec.md R85): zero length, MalformedFrame(ZERO_LENGTH). -/
def execInLen0 (s : State) : Result :=
  rxbStep .inLen0 s fun _ t => .next (t.raise (.malformedZeroLength t.rx_addr)).toAwaitStart

/-- IN_LEN (40_frame_codec.md R86): a length byte of 1..255. -/
def execInLen (s : State) : Result :=
  rxbStep .inLen s fun b t =>
    .next { t with
      rx_len := b
      rx_rem := b
      rx_crc := crcUpdate t.cfg.algo t.rx_crc b
      rx_st := RxSt.READ_PAYLOAD
      rx_poll := false }

/-- IN_PAY (40_frame_codec.md R87): a payload byte that is not the last. -/
def execInPay (s : State) : Result :=
  rxbStep .inPay s fun b t =>
    match payloadIndex t.rx_len t.rx_rem with
    | none => .fault (.payloadIndex .rx)
    | some j =>
      .next { t with
        rx_buf := t.rx_buf.write j b
        rx_crc := crcUpdate t.cfg.algo t.rx_crc b
        rx_rem := t.rx_rem - 1
        rx_poll := false }

/-- IN_PAYLAST (40_frame_codec.md R88): the last payload byte. -/
def execInPaylast (s : State) : Result :=
  rxbStep .inPaylast s fun b t =>
    match payloadIndex t.rx_len t.rx_rem with
    | none => .fault (.payloadIndex .rx)
    | some j =>
      .next { t with
        rx_buf := t.rx_buf.write j b
        rx_crc := crcUpdate t.cfg.algo t.rx_crc b
        rx_rem := 0
        rx_st := RxSt.READ_CHECKSUM
        rx_poll := false }

/-- IN_CRCBAD (40_frame_codec.md R89): MalformedFrame(CHECKSUM_MISMATCH), whether the address is routable or
not; no StreamWrite. -/
def execInCrcbad (s : State) : Result :=
  rxbStep .inCrcbad s fun b t =>
    .next (t.raise (.malformedChecksum t.rx_addr t.rx_len (crcFinal t.cfg.algo t.rx_crc) b)).toAwaitStart

/-- IN_DELIVER (40_frame_codec.md R90): a valid frame for a routable address. -/
def execInDeliver (s : State) : Result :=
  rxbStep .inDeliver s fun _ t => .next (t.routeInbound t.rx_addr t.rxPayload).toAwaitStart

/-- IN_UNROUTABLE (40_frame_codec.md R91): a valid frame for an unroutable address; no StreamWrite. -/
def execInUnroutable (s : State) : Result :=
  rxbStep .inUnroutable s fun _ t => .next (t.raise (.unroutableAddress t.rx_addr t.rx_len)).toAwaitStart

/-- RX_RESERVED, ST 5 (40_frame_codec.md R92): `fault ReservedState`. -/
def execRxReservedSt5 (_s : State) : Result := .fault (.reservedState .rx)

/-- RX_RESERVED, ST 6 and 7 (40_frame_codec.md R92): `fault ReservedState`. -/
def execRxReservedSt67 (_s : State) : Result := .fault (.reservedState .rx)

end Sys2Proof.Machine
end

