-- ==== Sys2Proof/Machine/Tx.lean ====
section
/-! DEFINITION. The TXB steps: the outbound writer and serializer (44_outbound_writer.md R133 to R144). -/

namespace Sys2Proof.Machine

/-- A fetch attempt (44_outbound_writer.md R133 to R135): where it is enabled and the word is i's, `effect`
follows with the endpoint in hand; else the spec gives i no step here (log 8). -/
def fetchStep (i : Instr) (s : State) (effect : Nat → Result) : Result :=
  match s.fetchEndpoint with
  | none => .refused .notEnabled
  | some a =>
    if s.fetchEnabled && decodeTxb s.txbWord == some i then effect a else .refused .notEnabled

/-- A byte step of TX (44_outbound_writer.md R133): where it is enabled and the word is i's, `effect`
follows; else the spec gives i no step here (log 8). -/
def txbStep (i : Instr) (s : State) (effect : Result) : Result :=
  if s.txByteEnabled && decodeTxb s.txbWord == some i then effect else .refused .notEnabled

/-- OUT_FETCH (44_outbound_writer.md R134): take a chunk from one endpoint. -/
def execOutFetch (s : State) : Result :=
  fetchStep .outFetch s fun a =>
    .next { s.dropSout a (s.chunkLen a) with
      tx_buf := s.tx_buf.writeFrom 0 (s.chunk a)
      tx_addr := BitVec.ofNat 8 a
      tx_len := BitVec.ofNat 8 (s.chunkLen a)
      tx_rem := BitVec.ofNat 8 (s.chunkLen a)
      tx_crc := s.cfg.algo.init
      tx_st := TxSt.TX_START }

/-- The host's k of OUT_SFAULT, capped at the chunk length c (44_outbound_writer.md R135; log 5). -/
def State.lostBytes (s : State) (a : Nat) : Nat :=
  match s.r_ans with
  | .ok => 0
  | .fault k => min k (s.chunkLen a)

/-- OUT_SFAULT (44_outbound_writer.md R135): the endpoint's read fails; some head bytes may be lost. -/
def execOutSfault (s : State) : Result :=
  fetchStep .outSfault s fun a =>
    .next ((s.dropSout a (s.lostBytes a)).raise (.logicalStreamFault .tx (BitVec.ofNat 8 a)))

/-- OUT_START (44_outbound_writer.md R136): send the start marker. -/
def execOutStart (s : State) : Result :=
  txbStep .outStart s (.next { s.linkSend Config.START with tx_st := TxSt.TX_ADDR })

/-- OUT_ADDR (44_outbound_writer.md R137): send the address. -/
def execOutAddr (s : State) : Result :=
  txbStep .outAddr s
    (.next { s.linkSend s.tx_addr with
      tx_crc := crcUpdate s.cfg.algo s.tx_crc s.tx_addr
      tx_st := TxSt.TX_LEN })

/-- OUT_LEN (44_outbound_writer.md R138): send the length. -/
def execOutLen (s : State) : Result :=
  txbStep .outLen s
    (.next { s.linkSend s.tx_len with
      tx_crc := crcUpdate s.cfg.algo s.tx_crc s.tx_len
      tx_st := TxSt.TX_PAYLOAD })

/-- OUT_PAY (44_outbound_writer.md R139): send a payload byte that is not the last. -/
def execOutPay (s : State) : Result :=
  txbStep .outPay s
    (match payloadIndex s.tx_len s.tx_rem with
    | none => .fault (.payloadIndex .tx)
    | some j =>
      .next { s.linkSend (s.tx_buf.read j) with
        tx_crc := crcUpdate s.cfg.algo s.tx_crc (s.tx_buf.read j)
        tx_rem := s.tx_rem - 1 })

/-- OUT_PAYLAST (44_outbound_writer.md R140): send the last payload byte. -/
def execOutPaylast (s : State) : Result :=
  txbStep .outPaylast s
    (match payloadIndex s.tx_len s.tx_rem with
    | none => .fault (.payloadIndex .tx)
    | some j =>
      .next { s.linkSend (s.tx_buf.read j) with
        tx_crc := crcUpdate s.cfg.algo s.tx_crc (s.tx_buf.read j)
        tx_rem := 0
        tx_st := TxSt.TX_CRC })

/-- OUT_CRC (44_outbound_writer.md R141): send the checksum and end the frame. -/
def execOutCrc (s : State) : Result :=
  txbStep .outCrc s (.next { s.linkSend (crcFinal s.cfg.algo s.tx_crc) with tx_st := TxSt.TX_IDLE })

/-- TX_RESERVED (44_outbound_writer.md R144): `fault ReservedState`. -/
def execTxReserved (_s : State) : Result := .fault (.reservedState .tx)

end Sys2Proof.Machine
end

