-- ==== Sys2Proof/Machine/Dispatch.lean ====
section
/-! DEFINITION. One arm for each constructor of Instr: each is a direct call of the meaning. -/

namespace Sys2Proof.Machine

def exec (i : Instr) (s : State) : Host.Outcome State Fault Refusal :=
  match i with
  | .inDrop => Sys2Proof.Machine.execInDrop s
  | .inSof => Sys2Proof.Machine.execInSof s
  | .inAddr => Sys2Proof.Machine.execInAddr s
  | .inLen0 => Sys2Proof.Machine.execInLen0 s
  | .inLen => Sys2Proof.Machine.execInLen s
  | .inPay => Sys2Proof.Machine.execInPay s
  | .inPaylast => Sys2Proof.Machine.execInPaylast s
  | .inCrcbad => Sys2Proof.Machine.execInCrcbad s
  | .inDeliver => Sys2Proof.Machine.execInDeliver s
  | .inUnroutable => Sys2Proof.Machine.execInUnroutable s
  | .rxReservedSt5 => Sys2Proof.Machine.execRxReservedSt5 s
  | .rxReservedSt67 => Sys2Proof.Machine.execRxReservedSt67 s
  | .outFetch => Sys2Proof.Machine.execOutFetch s
  | .outSfault => Sys2Proof.Machine.execOutSfault s
  | .outStart => Sys2Proof.Machine.execOutStart s
  | .outAddr => Sys2Proof.Machine.execOutAddr s
  | .outLen => Sys2Proof.Machine.execOutLen s
  | .outPay => Sys2Proof.Machine.execOutPay s
  | .outPaylast => Sys2Proof.Machine.execOutPaylast s
  | .outCrc => Sys2Proof.Machine.execOutCrc s
  | .txReserved => Sys2Proof.Machine.execTxReserved s
  | .reset => Sys2Proof.Machine.execReset s
  | .setStop => Sys2Proof.Machine.execSetStop s
  | .rxIncomplete => Sys2Proof.Machine.execRxIncomplete s
  | .rxHalt => Sys2Proof.Machine.execRxHalt s
  | .rxLinkFault => Sys2Proof.Machine.execRxLinkFault s
  | .txHalt => Sys2Proof.Machine.execTxHalt s
  | .txLinkFault => Sys2Proof.Machine.execTxLinkFault s

end Sys2Proof.Machine
end

