-- ==== Sys2Proof/Machine/Turn.lean ====
section
/-! DEFINITION. What one move does: a turn of RX or of TX, a CTL code, or another action of the host contract
(00_scope.md R7, 60_exceptions.md R171). -/

namespace Sys2Proof.Machine

/-- Run the selector an agent formed: decode it and perform its rule. With no selector the agent waits and
nothing of the block changes (43_inbound_reader.md R127, 44_outbound_writer.md R150). -/
def runSelected (sel : Option Selector) (s : State) : Result :=
  match sel with
  | none => .next s
  | some w =>
    match decode w with
    | .ok i => exec i s.release
    | .error (.reservedCtl k) => .refused (.reservedCtl k)
    | .error .noRow => .refused .notEnabled

/-- A turn of RX, with the endpoint's answer should the step be a delivery. A mode of 3 is a fault
(93_implementation_defined.md I7). -/
def rxTurn (answer : WriteAnswer) (s : State) : Result :=
  if s.rx_mode == Mode.UNUSED then .fault (.reservedMode .rx)
  else runSelected (s.rxSelect) { s with w_ans := answer }

/-- A turn of TX, with the endpoint that arbitration prefers and its answer should the step be a fetch
attempt. A mode of 3 is a fault (93_implementation_defined.md I7). -/
def txTurn (pick : Nat) (answer : ReadAnswer) (s : State) : Result :=
  if s.tx_mode == Mode.UNUSED then .fault (.reservedMode .tx)
  else
    let t := { s with pick := pick, r_ans := answer }
    runSelected t.txSelect t

/-- A CTL code. A code 0x7 to 0xF is refused (30_encoding.md R76). A step that is not enabled is not taken,
and nothing changes (60_exceptions.md R163 (3), 92_eei_decisions.md D10; log 9). -/
def ctlMove (k : CtlCode) (s : State) : Result :=
  match decodeCtl k with
  | none => .refused (.reservedCtl k)
  | some i => if s.ctlEnabled i then exec i s.release else .next s

/-- The host closes the link (70_reset_and_hazards.md R180 (3)). While RX is RUNNING that is the end of the
link source, so RX takes RX_LINK_FAULT (R180, 43_inbound_reader.md R132; log 13). While only TX is
RUNNING it is outside the contract. DESIGN CHOICE, which the spec leaves open: closing a link that is closed
already, also after the endpoints are released, changes nothing and is not refused (log 13). -/
def closeLinkMove (s : State) : Result :=
  if s.rx_mode == Mode.RUNNING then exec .rxLinkFault s.release
  else if s.tx_mode == Mode.RUNNING then .refused .outsideContract
  else .next { s with phase := if s.phase = .released then .released else .linkClosed }

/-- The host releases the endpoints, after both directions ended and the link is closed
(70_reset_and_hazards.md R180 (4)). Earlier it is outside the contract. DESIGN CHOICE, which the spec leaves open:
releasing them again changes nothing and is not refused (log 13). -/
def releaseEndpointsMove (s : State) : Result :=
  if s.rx_mode == Mode.RUNNING || s.tx_mode == Mode.RUNNING || s.phase = .up then .refused .outsideContract
  else .next { s with phase := .released }

/-- The host fixes N and CRC8_ALGO, which it may only while RESET is held (60_exceptions.md R166, R171); a
change while running is refused (70_reset_and_hazards.md R181), and so is an N above 256
(00_scope.md R6). -/
def configureMove (c : Config) (s : State) : Result :=
  if !c.wf then .refused .outsideContract
  else if s.held then .next { s with cfg := c } else .refused .configurationChange

/-- A logical write of the host to endpoint a (60_exceptions.md R171); `WRITE(a, s)` of 30_encoding.md R79.
There is no endpoint a with a ≥ N. -/
def appendSoutMove (a : Nat) (bytes : List Byte) (s : State) : Result :=
  if a < s.cfg.n then .next { s with sout := s.sout.set a (s.sout.get a ++ bytes) }
  else .refused .outsideContract

/-- One move (60_exceptions.md R171). -/
def takeMove (m : Move) (s : State) : Result :=
  match m with
  | .rx answer => rxTurn answer s
  | .tx pick answer => txTurn pick answer s
  | .ctl k => ctlMove k s
  | .appendLinkIn bytes => .next { s with link_in := s.link_in ++ bytes }
  | .drainLinkOut count => .next { s with link_out := s.link_out.drop count }
  | .appendSout a bytes => appendSoutMove a bytes s
  | .readModes => .next s
  | .configure c => configureMove c s
  | .closeLink => closeLinkMove s
  | .releaseEndpoints => releaseEndpointsMove s

/-- The next move and the state it is taken from: the oldest of `agenda`, or, where that is empty, a free
value (00_scope.md R7, 93_implementation_defined.md I13, I14; log 4). -/
def State.nextMove (s : State) : Move × State :=
  match s.agenda with
  | m :: rest => (m, { s with agenda := rest })
  | [] => (Config.freeMove s.free, { s with free := s.free + 1 })

/-! ### Making the next step a given instruction -/

/-- A byte that makes the RXB word of s, in the state code of i, the word of i. -/
def stageByte (i : Instr) (s : State) : Byte :=
  match i with
  | .inSof => Config.START
  | .inLen => 0x01
  | .inCrcbad => ~~~ (crcFinal s.cfg.algo s.rx_crc)
  | .inDeliver => crcFinal s.cfg.algo s.rx_crc
  | .inUnroutable => crcFinal s.cfg.algo s.rx_crc
  | _ => 0x00

/-- s with RX running and a decode call in progress, in state code st, and a byte at the head of `link_in` that
forms the word of i; the next move is RX's. -/
def stageRx (i : Instr) (st : StCode) (s : State) : State :=
  { s with
    rx_mode := Mode.RUNNING
    rx_poll := false
    rx_st := st
    link_in := stageByte i s :: s.link_in
    agenda := .rx .ok :: s.agenda }

/-- s with TX running in state code st; the next move is TX's. -/
def stageTx (st : StCode) (answer : ReadAnswer) (s : State) : State :=
  { s with tx_mode := Mode.RUNNING, tx_st := st, agenda := .tx 0 answer :: s.agenda }

/-- s with endpoint 0 holding a byte and no stop requested: what a fetch attempt needs. -/
def stageFetch (s : State) : State :=
  { s with
    stop := false
    cfg := { s.cfg with n := max s.cfg.n 1 }
    sout := s.sout.set 0 (if (s.sout.get 0).isEmpty then [0x00] else s.sout.get 0) }

/-- s changed by what it takes for the very next step to run instruction i (log 15). -/
def State.stage (s : State) (i : Instr) : State :=
  match i with
  | .inDrop => stageRx i RxSt.AWAIT_START s
  | .inSof => stageRx i RxSt.AWAIT_START s
  | .inAddr => stageRx i RxSt.READ_ADDRESS s
  | .inLen0 => stageRx i RxSt.READ_LENGTH s
  | .inLen => stageRx i RxSt.READ_LENGTH s
  | .inPay => stageRx i RxSt.READ_PAYLOAD { s with rx_len := 2, rx_rem := 2 }
  | .inPaylast => stageRx i RxSt.READ_PAYLOAD { s with rx_len := 1, rx_rem := 1 }
  | .inCrcbad => stageRx i RxSt.READ_CHECKSUM s
  | .inDeliver =>
    stageRx i RxSt.READ_CHECKSUM { s with rx_addr := 0, rx_len := 1, cfg := { s.cfg with n := max s.cfg.n 1 } }
  | .inUnroutable =>
    stageRx i RxSt.READ_CHECKSUM { s with rx_addr := 255, cfg := { s.cfg with n := min s.cfg.n 255 } }
  | .rxReservedSt5 => stageRx i 5 s
  | .rxReservedSt67 => stageRx i 6 s
  | .outFetch => stageTx TxSt.TX_IDLE .ok (stageFetch s)
  | .outSfault => stageTx TxSt.TX_IDLE (.fault 0) (stageFetch s)
  | .outStart => stageTx TxSt.TX_START .ok s
  | .outAddr => stageTx TxSt.TX_ADDR .ok s
  | .outLen => stageTx TxSt.TX_LEN .ok s
  | .outPay => stageTx TxSt.TX_PAYLOAD .ok { s with tx_len := 2, tx_rem := 2 }
  | .outPaylast => stageTx TxSt.TX_PAYLOAD .ok { s with tx_len := 1, tx_rem := 1 }
  | .outCrc => stageTx TxSt.TX_CRC .ok s
  | .txReserved => stageTx 6 .ok s
  | .reset => { s with agenda := .ctl 0x0 :: s.agenda }
  | .setStop => { s with agenda := .ctl 0x1 :: s.agenda }
  | .rxIncomplete =>
    { s with rx_mode := Mode.RUNNING, rx_poll := false, link_in := [], agenda := .rx .ok :: s.agenda }
  | .rxHalt =>
    { s with rx_mode := Mode.RUNNING, rx_poll := true, stop := true, agenda := .rx .ok :: s.agenda }
  | .rxLinkFault => { s with rx_mode := Mode.RUNNING, agenda := .ctl 0x4 :: s.agenda }
  | .txHalt => { stageTx TxSt.TX_IDLE .ok s with stop := true }
  | .txLinkFault => { s with tx_mode := Mode.RUNNING, agenda := .ctl 0x6 :: s.agenda }

/-- s changed so that the very next step runs the instruction of a table word; a word that names no step is
issued as a CTL code, which the step refuses (log 15). -/
def State.stageWord (s : State) (nbits w : Nat) : State :=
  match decodeTableWord nbits w with
  | some i => s.stage i
  | none => { s with agenda := .ctl (if nbits = 4 then BitVec.ofNat 4 w else 0xF) :: s.agenda }

end Sys2Proof.Machine
end

