-- ==== Sys2Proof/Machine/Step.lean ====
section
/-! DEFINITION. One step of the machine, and placing an instruction where the next step finds it. -/

namespace Sys2Proof.Machine

/-- One step: the next move is taken (00_scope.md R7). -/
def step (s : State) : Host.Outcome State Fault Refusal :=
  takeMove s.nextMove.1 s.nextMove.2

/-- s with the instruction of a table word made the next to run (log 15). -/
def State.withFetchWord (s : State) (nbits w : Nat) : State := s.stageWord nbits w

end Sys2Proof.Machine
end

