-- ==== Sys2Proof/Machine/Schedule.lean ====
section
/-! DEFINITION. Endless executions under a schedule, and the one liveness assumption of the spec: weak fairness of
RX and of TX (00_scope.md R7, 70_reset_and_hazards.md R186). A schedule is any sequence of moves, so every
interleaving of R7 has one; `step` takes the moves of a finite part of a schedule from `agenda`
(Laws/Schedule.lean, execution_run). -/

namespace Sys2Proof.Machine

/-- RX has some step enabled of those it takes itself (43_inbound_reader.md R127). RX_LINK_FAULT is the host's
signal, which fairness never forces (R186). -/
def State.rxCanStep (s : State) : Bool := s.rxSelect.isSome

/-- TX has some step enabled of those it takes itself (44_outbound_writer.md R150). TX_LINK_FAULT is the host's
signal, which fairness never forces (R186). -/
def State.txCanStep (s : State) : Bool := s.txSelect.isSome

/-- Taken in s, the move m is a step of RX: RX's turn, or the code of RX_INCOMPLETE or RX_HALT, where that step is
enabled. -/
def State.takesRxStep (s : State) (m : Move) : Bool :=
  match m with
  | .rx _ => s.rxCanStep
  | .ctl k => (k == 0x2 && s.rxIncompleteEnabled) || (k == 0x3 && s.rxHaltEnabled)
  | .tx _ _ | .appendLinkIn _ | .drainLinkOut _ | .appendSout _ _ | .readModes | .configure _ | .closeLink
  | .releaseEndpoints => false

/-- Taken in s, the move m is a step of TX: TX's turn, or the code of TX_HALT, where that step is enabled. -/
def State.takesTxStep (s : State) (m : Move) : Bool :=
  match m with
  | .tx _ _ => s.txCanStep
  | .ctl k => k == 0x5 && s.txHaltEnabled
  | .rx _ | .appendLinkIn _ | .drainLinkOut _ | .appendSout _ _ | .readModes | .configure _ | .closeLink
  | .releaseEndpoints => false

/-- r is the endless execution of the block under the schedule σ: the move σ n leads from the state r n to
r (n + 1) (00_scope.md R7). -/
def IsExecution (σ : Nat → Move) (r : Nat → State) : Prop :=
  ∀ n, takeMove (σ n) (r n) = .next (r (n + 1))

/-- Weak fairness of RX: where RX has some step enabled continuously from n on, it takes one at n or later
(70_reset_and_hazards.md R186). -/
def RxFair (σ : Nat → Move) (r : Nat → State) : Prop :=
  ∀ n, (∀ m, n ≤ m → (r m).rxCanStep = true) → ∃ m, n ≤ m ∧ (r m).takesRxStep (σ m) = true

/-- Weak fairness of TX (70_reset_and_hazards.md R186). -/
def TxFair (σ : Nat → Move) (r : Nat → State) : Prop :=
  ∀ n, (∀ m, n ≤ m → (r m).txCanStep = true) → ∃ m, n ≤ m ∧ (r m).takesTxStep (σ m) = true

/-- The liveness assumption of the spec: weak fairness of each agent, and nothing more. No host action is forced,
and nothing is assumed between the endpoints of OUT_FETCH (70_reset_and_hazards.md R186). -/
def WeaklyFair (σ : Nat → Move) (r : Nat → State) : Prop := RxFair σ r ∧ TxFair σ r

end Sys2Proof.Machine
end

