-- ==== Sys2Proof/Safety.lean ====
section
/-! DEFINITION. What the statements speak of: the invariants of 10_state.md R38 and R39, idle and final states
(60_exceptions.md R172, 70_reset_and_hazards.md R188), what each agent sees (20_memory.md R57), and the
lists of moves that make a run of one agent. -/

namespace Sys2Proof.Machine

/-- The payload bytes of the frame attempt received so far: `rx_buf[0..rx_len − rx_rem)` (10_state.md R38). -/
def State.rxReceived (s : State) : List Byte := s.rx_buf.upTo (s.rx_len.toNat - s.rx_rem.toNat)

/-- The payload bytes of the frame sent so far: `tx_buf[0..tx_len − tx_rem)` (10_state.md R39). -/
def State.txSent (s : State) : List Byte := s.tx_buf.upTo (s.tx_len.toNat - s.tx_rem.toNat)

/-- The RX invariants (10_state.md R38), with the value of `rx_crc` in READ_ADDRESS (R83) that carries them. -/
structure RxInv (s : State) : Prop where
  code : s.rx_st.toNat ≤ 4
  address : s.rx_st = RxSt.READ_ADDRESS → s.rx_crc = s.cfg.algo.init
  length : s.rx_st = RxSt.READ_LENGTH → s.rx_crc = crcUpdate s.cfg.algo s.cfg.algo.init s.rx_addr
  payload : s.rx_st = RxSt.READ_PAYLOAD →
    1 ≤ s.rx_rem.toNat ∧ s.rx_rem.toNat ≤ s.rx_len.toNat ∧
      s.rx_crc = crcRaw s.cfg.algo ([s.rx_addr, s.rx_len] ++ s.rxReceived)
  checksum : s.rx_st = RxSt.READ_CHECKSUM →
    s.rx_rem = 0 ∧ 1 ≤ s.rx_len.toNat ∧ s.rx_crc = crcRaw s.cfg.algo ([s.rx_addr, s.rx_len] ++ s.rxPayload)

/-- The TX invariants (10_state.md R39), with the value of `tx_crc` in every state spelt out. -/
structure TxInv (s : State) : Prop where
  code : s.tx_st.toNat ≤ 5
  frame : s.tx_st ≠ TxSt.TX_IDLE → s.tx_addr.toNat < s.cfg.n ∧ 1 ≤ s.tx_len.toNat
  start : s.tx_st = TxSt.TX_START → s.tx_rem = s.tx_len ∧ s.tx_crc = s.cfg.algo.init
  addr : s.tx_st = TxSt.TX_ADDR → s.tx_rem = s.tx_len ∧ s.tx_crc = s.cfg.algo.init
  len : s.tx_st = TxSt.TX_LEN →
    s.tx_rem = s.tx_len ∧ s.tx_crc = crcUpdate s.cfg.algo s.cfg.algo.init s.tx_addr
  payload : s.tx_st = TxSt.TX_PAYLOAD →
    1 ≤ s.tx_rem.toNat ∧ s.tx_rem.toNat ≤ s.tx_len.toNat ∧
      s.tx_crc = crcRaw s.cfg.algo ([s.tx_addr, s.tx_len] ++ s.txSent)
  crc : s.tx_st = TxSt.TX_CRC →
    s.tx_rem = 0 ∧ s.tx_crc = crcRaw s.cfg.algo ([s.tx_addr, s.tx_len] ++ s.txSent)

/-- The invariant of the machine: N in range, no mode code 3, both agents' invariants, the buffers and stream
queues in canonical form, and, while RESET is held, both agents at their reset control points. -/
structure Inv (s : State) : Prop where
  config : s.cfg.n ≤ 256
  rxMode : s.rx_mode ≠ Mode.UNUSED
  txMode : s.tx_mode ≠ Mode.UNUSED
  rx : RxInv s
  tx : TxInv s
  rxBuf : s.rx_buf.wf
  txBuf : s.tx_buf.wf
  sin : s.sin.wf
  sout : s.sout.wf
  held : s.held = true → s.rx_st = RxSt.AWAIT_START ∧ s.tx_st = TxSt.TX_IDLE

/-- RX is idle: it has no step and waits for the host (60_exceptions.md R172). -/
def State.rxIdle (s : State) : Prop :=
  s.rx_mode = Mode.RUNNING ∧ s.rx_poll = true ∧ s.link_in = [] ∧ s.stop = false

/-- TX is idle (60_exceptions.md R172). -/
def State.txIdle (s : State) : Prop :=
  s.tx_mode = Mode.RUNNING ∧ s.tx_st = TxSt.TX_IDLE ∧ s.stop = false ∧ ∀ a < s.cfg.n, s.sout.get a = []

/-- A final state: neither direction is RUNNING (70_reset_and_hazards.md R188). -/
def State.final (s : State) : Prop := s.rx_mode ≠ Mode.RUNNING ∧ s.tx_mode ≠ Mode.RUNNING

/-- The observation of a run (70_reset_and_hazards.md R188). -/
structure Observation where
  sin     : Streams
  linkOut : List Byte
  log     : List Event
  rxMode  : ModeCode
  txMode  : ModeCode
  deriving DecidableEq, Repr

/-- What a run that ended in s shows (70_reset_and_hazards.md R188). -/
def State.observe (s : State) : Observation :=
  { sin := s.sin, linkOut := s.link_out, log := s.log, rxMode := s.rx_mode, txMode := s.tx_mode }

/-- Two states agree on all that RX owns, reads or writes: its registers, `link_in`, `sin`, `stop` and the
configuration (10_state.md R15, 20_memory.md R57). -/
structure RxAgree (s t : State) : Prop where
  cfg : s.cfg = t.cfg
  stop : s.stop = t.stop
  rx_mode : s.rx_mode = t.rx_mode
  rx_st : s.rx_st = t.rx_st
  rx_poll : s.rx_poll = t.rx_poll
  rx_addr : s.rx_addr = t.rx_addr
  rx_len : s.rx_len = t.rx_len
  rx_rem : s.rx_rem = t.rx_rem
  rx_crc : s.rx_crc = t.rx_crc
  rx_buf : s.rx_buf = t.rx_buf
  link_in : s.link_in = t.link_in
  sin : s.sin = t.sin

/-- Two states agree on all that TX owns, reads or writes: its registers, `link_out`, `sout`, `stop` and the
configuration (10_state.md R15, 20_memory.md R57). -/
structure TxAgree (s t : State) : Prop where
  cfg : s.cfg = t.cfg
  stop : s.stop = t.stop
  tx_mode : s.tx_mode = t.tx_mode
  tx_st : s.tx_st = t.tx_st
  tx_addr : s.tx_addr = t.tx_addr
  tx_len : s.tx_len = t.tx_len
  tx_rem : s.tx_rem = t.tx_rem
  tx_crc : s.tx_crc = t.tx_crc
  tx_buf : s.tx_buf = t.tx_buf
  link_out : s.link_out = t.link_out
  sout : s.sout = t.sout

/-- RX stands where an RXB step is enabled, b being the byte it would consume (40_frame_codec.md R80). -/
structure TakesByte (s : State) (b : Byte) (rest : List Byte) : Prop where
  running : s.rx_mode = Mode.RUNNING
  sampled : s.rx_poll = false ∨ s.stop = false
  byte : s.link_in = b :: rest

/-- RX's next step is i: the selector RX forms decodes to i. -/
def State.rxTakes (s : State) (i : Instr) : Prop := ∃ w, s.rxSelect = some w ∧ decode w = .ok i

/-- TX's next step is i: the selector TX forms decodes to i. -/
def State.txTakes (s : State) (i : Instr) : Prop := ∃ w, s.txSelect = some w ∧ decode w = .ok i

/-- The next move is the host's RESET. -/
def State.nextIsReset (s : State) : Prop := s.nextMove.1 = .ctl 0x0

/-- The RXB words that decode to i are those with the given bits under the given mask (a row of
30_encoding.md R73). -/
def rxbRowIs (i : Instr) (bits mask : RxbWord) : Prop := ∀ w, decode (.rxb w) = .ok i ↔ w &&& mask = bits

/-- The TXB words that decode to i are those with the given bits under the given mask (a row of
30_encoding.md R74). -/
def txbRowIs (i : Instr) (bits mask : TxbWord) : Prop := ∀ w, decode (.txb w) = .ok i ↔ w &&& mask = bits

/-- The one CTL code of i (30_encoding.md R75). -/
def ctlCodeIs (i : Instr) (k : CtlCode) : Prop := ∀ k', decode (.ctl k') = .ok i ↔ k' = k

/-- k turns of RX, every endpoint answering OK. -/
def rxTurns (k : Nat) : List Move := List.replicate k (.rx .ok)

/-- k turns of TX that prefer endpoint a, every endpoint answering OK. -/
def txTurns (k a : Nat) : List Move := List.replicate k (.tx a .ok)

/-- The bytes of the frame for address a and payload p on the wire (30_encoding.md R63). -/
def wireFrame (g : Crc8Algo) (a : Byte) (p : List Byte) : List Byte := (frameOf g a p).bytes

/-- The bytes s with bit k of byte i flipped. -/
def flipBit (s : List Byte) (i k : Nat) : List Byte := s.modify i (fun b => b ^^^ ((1 : Byte) <<< k))

/-- k steps of the machine, stopping at the first fault or refusal. -/
def run : Nat → State → Result
  | 0, s => .next s
  | k + 1, s =>
    match step s with
    | .next t => run k t
    | .fault f => .fault f
    | .refused r => .refused r

end Sys2Proof.Machine
end

