-- ==== Sys2Proof/Certificates/Slice0/Obligations.lean ====
section
/-! DEFINITION. The statements for the provers, in the order of OBLIGATIONS.json. Each docstring names the rule
of spec/ that the statement formalises. A free value or a reset value that the model chose is never relied on;
where a clause is the model's choice, the docstring names its log entry. -/

open Sys2Proof Sys2Proof.Machine

/-! ### Reset and stop -/

/-- 10_state.md R18, R20, R21, R22, R30, R31, R44: the reset values the spec gives. -/
def Obligations.ResetStateHasSpecValues : Prop :=
  State.reset.stop = false ∧ State.reset.rx_mode = Mode.RUNNING ∧ State.reset.rx_st = RxSt.AWAIT_START ∧
    State.reset.rx_poll = true ∧ State.reset.tx_mode = Mode.RUNNING ∧ State.reset.tx_st = TxSt.TX_IDLE ∧
    State.reset.log = []

/-- 70_reset_and_hazards.md R173: RESET at any time gives the values of its table and leaves the host-owned
queues. The data registers and buffers are unspecified, and the statement says nothing of them. -/
def Obligations.ResetStepSetsItsTable : Prop :=
  ctlCodeIs .reset 0x0 ∧ ∀ s : State, ∃ t, exec .reset s = .next t ∧
    t.stop = false ∧ t.rx_mode = Mode.RUNNING ∧ t.rx_st = RxSt.AWAIT_START ∧ t.rx_poll = true ∧
    t.tx_mode = Mode.RUNNING ∧ t.tx_st = TxSt.TX_IDLE ∧ t.log = [] ∧
    t.link_in = s.link_in ∧ t.link_out = s.link_out ∧ t.sin = s.sin ∧ t.sout = s.sout ∧ t.cfg = s.cfg

/-- 10_state.md R18, 60_exceptions.md R171: SET_STOP sets `stop` and changes nothing else. -/
def Obligations.SetStopSetsTheFlagOnly : Prop :=
  ctlCodeIs .setStop 0x1 ∧ ∀ s : State, exec .setStop s = .next { s with stop := true }

/-! ### The RXB steps -/

/-- 40_frame_codec.md R82. -/
def Obligations.InDropDiscardsNonMarker : Prop :=
  rxbRowIs .inDrop 0x00 0xF0 ∧ ∀ (s : State) (b : Byte) (rest : List Byte), TakesByte s b rest →
    s.rx_st = RxSt.AWAIT_START → b ≠ 0xAA →
    s.rxTakes .inDrop ∧ exec .inDrop s = .next { s with link_in := rest, rx_poll := false }

/-- 40_frame_codec.md R83. -/
def Obligations.InSofOpensFrame : Prop :=
  rxbRowIs .inSof 0x10 0xF0 ∧ ∀ (s : State) (b : Byte) (rest : List Byte), TakesByte s b rest →
    s.rx_st = RxSt.AWAIT_START → b = 0xAA →
    s.rxTakes .inSof ∧
      exec .inSof s = .next { s with
        link_in := rest, rx_crc := s.cfg.algo.init, rx_st := RxSt.READ_ADDRESS, rx_poll := false }

/-- 40_frame_codec.md R84: every byte is an address. -/
def Obligations.InAddrTakesAddress : Prop :=
  rxbRowIs .inAddr 0x20 0xE0 ∧ ∀ (s : State) (b : Byte) (rest : List Byte), TakesByte s b rest →
    s.rx_st = RxSt.READ_ADDRESS →
    s.rxTakes .inAddr ∧
      exec .inAddr s = .next { s with
        link_in := rest, rx_addr := b, rx_crc := crcUpdate s.cfg.algo s.rx_crc b,
        rx_st := RxSt.READ_LENGTH, rx_poll := false }

/-- 40_frame_codec.md R85, 60_exceptions.md R156 (1). -/
def Obligations.InLen0RaisesZeroLength : Prop :=
  rxbRowIs .inLen0 0x48 0xE8 ∧ ∀ (s : State) (b : Byte) (rest : List Byte), TakesByte s b rest →
    s.rx_st = RxSt.READ_LENGTH → b = 0x00 →
    s.rxTakes .inLen0 ∧
      exec .inLen0 s = .next { s with
        link_in := rest, log := s.log ++ [.malformedZeroLength s.rx_addr],
        rx_st := RxSt.AWAIT_START, rx_poll := true }

/-- 40_frame_codec.md R86. -/
def Obligations.InLenTakesLength : Prop :=
  rxbRowIs .inLen 0x40 0xE8 ∧ ∀ (s : State) (b : Byte) (rest : List Byte), TakesByte s b rest →
    s.rx_st = RxSt.READ_LENGTH → b ≠ 0x00 →
    s.rxTakes .inLen ∧
      exec .inLen s = .next { s with
        link_in := rest, rx_len := b, rx_rem := b, rx_crc := crcUpdate s.cfg.algo s.rx_crc b,
        rx_st := RxSt.READ_PAYLOAD, rx_poll := false }

/-- 40_frame_codec.md R87, with the frame of the buffer said by its read. -/
def Obligations.InPayStoresPayloadByte : Prop :=
  rxbRowIs .inPay 0x60 0xE4 ∧ ∀ (s : State) (b : Byte) (rest : List Byte), TakesByte s b rest → s.rx_buf.wf →
    s.rx_st = RxSt.READ_PAYLOAD → 2 ≤ s.rx_rem.toNat → s.rx_rem.toNat ≤ s.rx_len.toNat →
    s.rxTakes .inPay ∧ ∃ t, exec .inPay s = .next t ∧
      t = { s with
        link_in := rest, rx_buf := t.rx_buf, rx_crc := crcUpdate s.cfg.algo s.rx_crc b,
        rx_rem := s.rx_rem - 1, rx_poll := false } ∧
      t.rx_rem.toNat = s.rx_rem.toNat - 1 ∧
      t.rx_buf.read (s.rx_len.toNat - s.rx_rem.toNat) = b ∧
      ∀ i, i ≠ s.rx_len.toNat - s.rx_rem.toNat → t.rx_buf.read i = s.rx_buf.read i

/-- 40_frame_codec.md R88, with the frame of the buffer said by its read. -/
def Obligations.InPaylastStoresLastByte : Prop :=
  rxbRowIs .inPaylast 0x64 0xE4 ∧ ∀ (s : State) (b : Byte) (rest : List Byte), TakesByte s b rest → s.rx_buf.wf →
    s.rx_st = RxSt.READ_PAYLOAD → s.rx_rem = 1 → 1 ≤ s.rx_len.toNat →
    s.rxTakes .inPaylast ∧ ∃ t, exec .inPaylast s = .next t ∧
      t = { s with
        link_in := rest, rx_buf := t.rx_buf, rx_crc := crcUpdate s.cfg.algo s.rx_crc b,
        rx_rem := 0, rx_st := RxSt.READ_CHECKSUM, rx_poll := false } ∧
      t.rx_buf.read (s.rx_len.toNat - 1) = b ∧
      ∀ i, i ≠ s.rx_len.toNat - 1 → t.rx_buf.read i = s.rx_buf.read i

/-- 40_frame_codec.md R89, 60_exceptions.md R156 (2): whatever the address is. -/
def Obligations.InCrcbadRaisesChecksumMismatch : Prop :=
  rxbRowIs .inCrcbad 0x80 0xE2 ∧ ∀ (s : State) (b : Byte) (rest : List Byte), TakesByte s b rest →
    s.rx_st = RxSt.READ_CHECKSUM → b ≠ crcFinal s.cfg.algo s.rx_crc →
    s.rxTakes .inCrcbad ∧
      exec .inCrcbad s = .next { s with
        link_in := rest,
        log := s.log ++ [.malformedChecksum s.rx_addr s.rx_len (crcFinal s.cfg.algo s.rx_crc) b],
        rx_st := RxSt.AWAIT_START, rx_poll := true }

/-- 40_frame_codec.md R90, 42_router.md R117: the endpoint answers OK. -/
def Obligations.InDeliverAppendsPayload : Prop :=
  rxbRowIs .inDeliver 0x83 0xE3 ∧ ∀ (s : State) (b : Byte) (rest : List Byte), TakesByte s b rest → s.sin.wf →
    s.rx_st = RxSt.READ_CHECKSUM → b = crcFinal s.cfg.algo s.rx_crc → s.rx_addr.toNat < s.cfg.n →
    s.w_ans = .ok →
    s.rxTakes .inDeliver ∧ ∃ t, exec .inDeliver s = .next t ∧
      t = { s with link_in := rest, sin := t.sin, rx_st := RxSt.AWAIT_START, rx_poll := true } ∧
      t.sin.get s.rx_addr.toNat = s.sin.get s.rx_addr.toNat ++ s.rx_buf.upTo s.rx_len.toNat ∧
      ∀ a, a ≠ s.rx_addr.toNat → t.sin.get a = s.sin.get a

/-- 42_router.md R118: the endpoint answers FAULT. A host's k at or above the payload's length is outside
its contract, and the model caps it: that j < rx_len there is the model's choice (log 5). -/
def Obligations.InDeliverFaultAppendsShorterPart : Prop :=
  ∀ (s : State) (b : Byte) (rest : List Byte) (k : Nat), TakesByte s b rest → s.sin.wf →
    s.rx_st = RxSt.READ_CHECKSUM → b = crcFinal s.cfg.algo s.rx_crc → s.rx_addr.toNat < s.cfg.n →
    1 ≤ s.rx_len.toNat → s.w_ans = .fault k →
    s.rxTakes .inDeliver ∧ ∃ t j, exec .inDeliver s = .next t ∧ j < s.rx_len.toNat ∧
      (k < s.rx_len.toNat → j = k) ∧
      t = { s with
        link_in := rest, sin := t.sin, log := s.log ++ [.logicalStreamFault .rx s.rx_addr],
        rx_st := RxSt.AWAIT_START, rx_poll := true } ∧
      t.sin.get s.rx_addr.toNat = s.sin.get s.rx_addr.toNat ++ s.rx_buf.upTo j ∧
      ∀ a, a ≠ s.rx_addr.toNat → t.sin.get a = s.sin.get a

/-- 40_frame_codec.md R91, 60_exceptions.md R157. -/
def Obligations.InUnroutableDropsPayload : Prop :=
  rxbRowIs .inUnroutable 0x82 0xE3 ∧ ∀ (s : State) (b : Byte) (rest : List Byte), TakesByte s b rest →
    s.rx_st = RxSt.READ_CHECKSUM → b = crcFinal s.cfg.algo s.rx_crc → s.cfg.n ≤ s.rx_addr.toNat →
    s.rxTakes .inUnroutable ∧
      exec .inUnroutable s = .next { s with
        link_in := rest, log := s.log ++ [.unroutableAddress s.rx_addr s.rx_len],
        rx_st := RxSt.AWAIT_START, rx_poll := true }

/-- 30_encoding.md R76, 40_frame_codec.md R92, 44_outbound_writer.md R144: the reserved rows answer the model
fault ReservedState, and a turn that forms a reserved word meets it; where the invariant that every run from
reset has (InvariantHoldsAtReset, EveryStepKeepsInvariant) holds, no such word is formed. On which turn a
reserved code is met is the model's reading (log 17): R133 enables no TXB step with tx_st 6 or 7. -/
def Obligations.ReservedStatesFault : Prop :=
  (rxbRowIs .rxReservedSt5 0xA0 0xE0 ∧ rxbRowIs .rxReservedSt67 0xC0 0xC0 ∧ txbRowIs .txReserved 0x18 0x18) ∧
  (∀ s : State, exec .rxReservedSt5 s = .fault (.reservedState .rx) ∧
    exec .rxReservedSt67 s = .fault (.reservedState .rx) ∧ exec .txReserved s = .fault (.reservedState .tx)) ∧
  (∀ (s : State) (b : Byte) (rest : List Byte) (ans : WriteAnswer) (ms : List Move), TakesByte s b rest →
    5 ≤ s.rx_st.toNat → s.agenda = .rx ans :: ms → step s = .fault (.reservedState .rx)) ∧
  (∀ (s : State) (p : Nat) (ans : ReadAnswer) (ms : List Move), s.tx_mode = Mode.RUNNING →
    6 ≤ s.tx_st.toNat → s.agenda = .tx p ans :: ms → step s = .fault (.reservedState .tx)) ∧
  ∀ s : State, Inv s → ¬ s.rxTakes .rxReservedSt5 ∧ ¬ s.rxTakes .rxReservedSt67 ∧ ¬ s.txTakes .txReserved

/-! ### The TXB steps -/

/-- 44_outbound_writer.md R134, R148: a is the endpoint arbitration serves, q its oldest min(avail, 255) bytes;
every ready endpoint is served when arbitration prefers it: that clause is the model's form of the choice R148
leaves open (`pick`, log 5). -/
def Obligations.OutFetchTakesOldestChunk : Prop :=
  txbRowIs .outFetch 0x00 0x1D ∧ ∀ (s : State) (a : Nat), s.tx_mode = Mode.RUNNING → s.tx_st = TxSt.TX_IDLE → s.stop = false →
    s.fetchEndpoint = some a → s.r_ans = .ok → s.cfg.n ≤ 256 → s.tx_buf.wf → s.sout.wf →
    s.txTakes .outFetch ∧ ∃ t c, exec .outFetch s = .next t ∧ c = min (s.sout.get a).length 255 ∧ 1 ≤ c ∧
      a < s.cfg.n ∧
      t = { s with
        sout := t.sout, tx_buf := t.tx_buf, tx_addr := t.tx_addr, tx_len := t.tx_len, tx_rem := t.tx_len,
        tx_crc := s.cfg.algo.init, tx_st := TxSt.TX_START } ∧
      t.tx_addr.toNat = a ∧ t.tx_len.toNat = c ∧
      t.tx_buf.upTo c = (s.sout.get a).take c ∧ (∀ i, c ≤ i → t.tx_buf.read i = s.tx_buf.read i) ∧
      t.sout.get a = (s.sout.get a).drop c ∧ (∀ a', a' ≠ a → t.sout.get a' = s.sout.get a') ∧
      ∀ a', s.ready a' = true → ({ s with pick := a' } : State).fetchEndpoint = some a'

/-- 44_outbound_writer.md R135: at most c head bytes are lost, as many as the host says. A host's k above c is outside
its contract, and the model caps it: that the step completes with j ≤ c there is the model's choice (log 5). -/
def Obligations.OutSfaultRaisesStreamFault : Prop :=
  txbRowIs .outSfault 0x01 0x1D ∧ ∀ (s : State) (a k : Nat), s.tx_mode = Mode.RUNNING → s.tx_st = TxSt.TX_IDLE → s.stop = false →
    s.fetchEndpoint = some a → s.r_ans = .fault k → s.cfg.n ≤ 256 → s.sout.wf →
    s.txTakes .outSfault ∧ ∃ t j, exec .outSfault s = .next t ∧ j ≤ min (s.sout.get a).length 255 ∧
      (k ≤ min (s.sout.get a).length 255 → j = k) ∧
      (∃ addr : Byte, addr.toNat = a ∧
        t = { s with sout := t.sout, log := s.log ++ [.logicalStreamFault .tx addr] }) ∧
      t.sout.get a = (s.sout.get a).drop j ∧ ∀ a', a' ≠ a → t.sout.get a' = s.sout.get a'

/-- 44_outbound_writer.md R136. -/
def Obligations.OutStartSendsMarker : Prop :=
  txbRowIs .outStart 0x04 0x1C ∧ ∀ s : State, s.tx_mode = Mode.RUNNING → s.tx_st = TxSt.TX_START →
    s.txTakes .outStart ∧
      exec .outStart s = .next { s with link_out := s.link_out ++ [0xAA], tx_st := TxSt.TX_ADDR }

/-- 44_outbound_writer.md R137. -/
def Obligations.OutAddrSendsAddress : Prop :=
  txbRowIs .outAddr 0x08 0x1C ∧ ∀ s : State, s.tx_mode = Mode.RUNNING → s.tx_st = TxSt.TX_ADDR →
    s.txTakes .outAddr ∧
      exec .outAddr s = .next { s with
        link_out := s.link_out ++ [s.tx_addr], tx_crc := crcUpdate s.cfg.algo s.tx_crc s.tx_addr,
        tx_st := TxSt.TX_LEN }

/-- 44_outbound_writer.md R138. -/
def Obligations.OutLenSendsLength : Prop :=
  txbRowIs .outLen 0x0C 0x1C ∧ ∀ s : State, s.tx_mode = Mode.RUNNING → s.tx_st = TxSt.TX_LEN →
    s.txTakes .outLen ∧
      exec .outLen s = .next { s with
        link_out := s.link_out ++ [s.tx_len], tx_crc := crcUpdate s.cfg.algo s.tx_crc s.tx_len,
        tx_st := TxSt.TX_PAYLOAD }

/-- 44_outbound_writer.md R139. -/
def Obligations.OutPaySendsPayloadByte : Prop :=
  txbRowIs .outPay 0x10 0x1E ∧ ∀ s : State, s.tx_mode = Mode.RUNNING → s.tx_st = TxSt.TX_PAYLOAD →
    2 ≤ s.tx_rem.toNat → s.tx_rem.toNat ≤ s.tx_len.toNat →
    s.txTakes .outPay ∧ ∃ v, v = s.tx_buf.read (s.tx_len.toNat - s.tx_rem.toNat) ∧
      exec .outPay s = .next { s with
        link_out := s.link_out ++ [v], tx_crc := crcUpdate s.cfg.algo s.tx_crc v, tx_rem := s.tx_rem - 1 } ∧
      (s.tx_rem - 1).toNat = s.tx_rem.toNat - 1

/-- 44_outbound_writer.md R140. -/
def Obligations.OutPaylastSendsLastByte : Prop :=
  txbRowIs .outPaylast 0x12 0x1E ∧ ∀ s : State, s.tx_mode = Mode.RUNNING → s.tx_st = TxSt.TX_PAYLOAD → s.tx_rem = 1 → 1 ≤ s.tx_len.toNat →
    s.txTakes .outPaylast ∧ ∃ v, v = s.tx_buf.read (s.tx_len.toNat - 1) ∧
      exec .outPaylast s = .next { s with
        link_out := s.link_out ++ [v], tx_crc := crcUpdate s.cfg.algo s.tx_crc v, tx_rem := 0,
        tx_st := TxSt.TX_CRC }

/-- 44_outbound_writer.md R141. -/
def Obligations.OutCrcSendsChecksum : Prop :=
  txbRowIs .outCrc 0x14 0x1C ∧ ∀ s : State, s.tx_mode = Mode.RUNNING → s.tx_st = TxSt.TX_CRC →
    s.txTakes .outCrc ∧
      exec .outCrc s = .next { s with
        link_out := s.link_out ++ [crcFinal s.cfg.algo s.tx_crc], tx_st := TxSt.TX_IDLE }

/-- 30_encoding.md R69, R71, 20_memory.md R46: a payload step whose count no buffer element fits faults by
name; this stop is the model's (log 10). -/
def Obligations.PayloadCountOutOfRangeFaults : Prop :=
  (∀ (s : State) (b : Byte) (rest : List Byte), TakesByte s b rest → s.rx_st = RxSt.READ_PAYLOAD →
    (s.rx_rem = 0 ∨ s.rx_len.toNat < s.rx_rem.toNat) →
    exec (if s.rx_rem = 1 then .inPaylast else .inPay) s = .fault (.payloadIndex .rx)) ∧
  (∀ s : State, s.tx_mode = Mode.RUNNING → s.tx_st = TxSt.TX_PAYLOAD →
    (s.tx_rem = 0 ∨ s.tx_len.toNat < s.tx_rem.toNat) →
    exec (if s.tx_rem = 1 then .outPaylast else .outPay) s = .fault (.payloadIndex .tx))

/-! ### The CTL steps -/

/-- 43_inbound_reader.md R124. Elsewhere the spec gives no step, and the refusal notEnabled is the model's
reading (log 8). -/
def Obligations.RxIncompleteKeepsCursor : Prop :=
  ctlCodeIs .rxIncomplete 0x2 ∧ ∀ s : State,
    (s.rx_mode = Mode.RUNNING ∧ s.rx_poll = false ∧ s.link_in = [] →
      s.rxTakes .rxIncomplete ∧ exec .rxIncomplete s = .next { s with rx_poll := true }) ∧
    (¬ (s.rx_mode = Mode.RUNNING ∧ s.rx_poll = false ∧ s.link_in = []) →
      exec .rxIncomplete s = .refused .notEnabled)

/-- 43_inbound_reader.md R125. Elsewhere the spec gives no step, and the refusal notEnabled is the model's
reading (log 8). -/
def Obligations.RxHaltHonoursStop : Prop :=
  ctlCodeIs .rxHalt 0x3 ∧ ∀ s : State,
    (s.rx_mode = Mode.RUNNING ∧ s.rx_poll = true ∧ s.stop = true →
      s.rxTakes .rxHalt ∧ exec .rxHalt s = .next { s with rx_mode := Mode.STOPPED }) ∧
    (¬ (s.rx_mode = Mode.RUNNING ∧ s.rx_poll = true ∧ s.stop = true) →
      exec .rxHalt s = .refused .notEnabled)

/-- 43_inbound_reader.md R126, R132, 60_exceptions.md 70_reset_and_hazards.md R180: the event, the mode, TX
untouched, and the closing of the link while RX is RUNNING taken as a link fault. The model's own are the refusal
notEnabled in another mode (log 8), the move closeLink (log 13) and that it releases RESET (log 7). -/
def Obligations.RxLinkFaultEndsRx : Prop :=
  ctlCodeIs .rxLinkFault 0x4 ∧ ∀ s : State,
    (s.rx_mode = Mode.RUNNING →
      exec .rxLinkFault s = .next { s with log := s.log ++ [.linkFault .rx], rx_mode := Mode.FAULTED }) ∧
    (s.rx_mode ≠ Mode.RUNNING → exec .rxLinkFault s = .refused .notEnabled) ∧
    (∀ ms : List Move, s.agenda = .closeLink :: ms → s.rx_mode = Mode.RUNNING →
      step s = exec .rxLinkFault { s with agenda := ms, held := false })

/-- 44_outbound_writer.md R142. Elsewhere the spec gives no step, and the refusal notEnabled is the model's
reading (log 8). -/
def Obligations.TxHaltHonoursStopAtIdle : Prop :=
  ctlCodeIs .txHalt 0x5 ∧ ∀ s : State,
    (s.tx_mode = Mode.RUNNING ∧ s.tx_st = TxSt.TX_IDLE ∧ s.stop = true →
      s.txTakes .txHalt ∧ exec .txHalt s = .next { s with tx_mode := Mode.STOPPED }) ∧
    (¬ (s.tx_mode = Mode.RUNNING ∧ s.tx_st = TxSt.TX_IDLE ∧ s.stop = true) →
      exec .txHalt s = .refused .notEnabled)

/-- 44_outbound_writer.md R143, 60_exceptions.md R161: the event, the mode, and RX untouched. In another
mode the spec gives no step, and the refusal notEnabled is the model's reading (log 8). -/
def Obligations.TxLinkFaultEndsTx : Prop :=
  ctlCodeIs .txLinkFault 0x6 ∧ ∀ s : State,
    (s.tx_mode = Mode.RUNNING →
      exec .txLinkFault s = .next { s with log := s.log ++ [.linkFault .tx], tx_mode := Mode.FAULTED }) ∧
    (s.tx_mode ≠ Mode.RUNNING → exec .txLinkFault s = .refused .notEnabled)

/-- 30_encoding.md R76: CTL codes 0x7 to 0xF name no step and are refused. -/
def Obligations.ReservedCtlCodesAreRefused : Prop :=
  ∀ (s : State) (k : CtlCode) (ms : List Move), 7 ≤ k.toNat → s.agenda = .ctl k :: ms →
    decode (.ctl k) = .error (.reservedCtl k) ∧ step s = .refused (.reservedCtl k)

/-! ### Selection, decoding and encoding -/

/-- 40_frame_codec.md R80, 44_outbound_writer.md R133: a step runs the instruction that the selected word
decodes to. What the model's step adds: the move leaves `agenda`, the host's answers of the move are set, RESET
is no longer held (log 4, log 5, log 7); with `agenda` empty the move is the free value (log 4). -/
def Obligations.StepRunsSelectedInstruction : Prop :=
  (∀ (s : State) (ans : WriteAnswer) (ms : List Move) (w : Selector) (i : Instr),
    s.agenda = .rx ans :: ms → s.rxSelect = some w → decode w = .ok i →
    step s = exec i { s with agenda := ms, w_ans := ans, held := false }) ∧
  (∀ (s : State) (p : Nat) (ans : ReadAnswer) (ms : List Move) (w : Selector) (i : Instr),
    s.agenda = .tx p ans :: ms → ({ s with pick := p, r_ans := ans } : State).txSelect = some w →
    decode w = .ok i →
    step s = exec i { s with agenda := ms, pick := p, r_ans := ans, held := false }) ∧
  (∀ (s : State) (k : CtlCode) (ms : List Move) (i : Instr),
    s.agenda = .ctl k :: ms → decode (.ctl k) = .ok i → s.ctlEnabled i = true →
    step s = exec i { s with agenda := ms, held := false }) ∧
  (∀ s : State, s.agenda = [] →
    step s = step { s with agenda := [Config.freeMove s.free], free := s.free + 1 })

/-- 30_encoding.md R73, R74, R75: a few words written out bit by bit, don't-care bits set in some. -/
def Obligations.WrittenOutWordsDecode : Prop :=
  decode (.rxb 0b00010000#8) = .ok .inSof ∧ decode (.rxb 0b01001000#8) = .ok .inLen0 ∧
    decode (.rxb 0b01010111#8) = .ok .inLen ∧ decode (.rxb 0b10000001#8) = .ok .inCrcbad ∧
    decode (.rxb 0b10000011#8) = .ok .inDeliver ∧ decode (.rxb 0b10011110#8) = .ok .inUnroutable ∧
    decode (.txb 0b00011#5) = .ok .outSfault ∧ decode (.txb 0b10000#5) = .ok .outPay ∧
    decode (.txb 0b10111#5) = .ok .outCrc ∧ decode (.ctl 0b0011#4) = .ok .rxHalt ∧
    decode (.ctl 0b0110#4) = .ok .txLinkFault ∧ decode (.ctl 0b0111#4) = .error (.reservedCtl 7)

/-- 30_encoding.md R73, R74: encoding is undone by decoding, and every RXB and every TXB word matches exactly
one row. -/
def Obligations.SelectorsRoundTripAndRowsAreDisjoint : Prop :=
  (∀ i : Instr, decode (encode i) = .ok i) ∧
    (∀ w : RxbWord, (rxbRows.filter (fun r => r.hits w)).length = 1) ∧
    (∀ w : TxbWord, (txbRows.filter (fun r => r.hits w)).length = 1)

/-! ### Invariants -/

/-- The invariant (10_state.md R38, R39, with the model's canonical forms, log 3) holds in the reset state. -/
def Obligations.InvariantHoldsAtReset : Prop := Inv State.reset

/-- 10_state.md R38, R39: every step keeps the invariant, from every state that has it. -/
def Obligations.EveryStepKeepsInvariant : Prop :=
  ∀ s t : State, Inv s → step s = .next t → Inv t

/-- 30_encoding.md R76, 93_implementation_defined.md I6, I7: from a state with the invariant no step answers a
model fault, and `step` never hands `exec` a step that is not enabled (log 8). -/
def Obligations.InvariantExcludesModelFaults : Prop :=
  ∀ s : State, Inv s → (∀ f, step s ≠ .fault f) ∧ step s ≠ .refused .notEnabled

/-! ### The inbound path, over runs of RX turns -/

/-- 40_frame_codec.md R97: bytes that are no marker are dropped, however many, with no event and no write,
whether or not a stop is requested (43_inbound_reader.md R128, once a decode call is under way). This covers
an uninterrupted run of RX turns over bytes already on the link; `w_ans` and `held` of the end state are the model's
own (log 5, log 7). -/
def Obligations.NoiseIsDroppedSilently : Prop :=
  ∀ (s : State) (noise tail : List Byte) (ms : List Move),
    s.rx_mode = Mode.RUNNING → s.rx_st = RxSt.AWAIT_START → s.rx_poll = false ∨ s.stop = false →
    (∀ b ∈ noise, b ≠ 0xAA) → noise ≠ [] → s.link_in = noise ++ tail →
    s.agenda = rxTurns noise.length ++ ms →
    run noise.length s =
      .next { s with link_in := tail, agenda := ms, rx_poll := false, w_ans := .ok, held := false }

/-- 40_frame_codec.md R100, R95: a frame that the encoder made, met in AWAIT_START after noise without a
marker, is received: delivered whole where its address is routable, reported where it is not. -/
def Obligations.EncodedFrameIsReceivedAfterNoise : Prop :=
  ∀ (s : State) (a : Byte) (p noise bytes tail : List Byte) (ms : List Move),
    s.rx_mode = Mode.RUNNING → s.rx_st = RxSt.AWAIT_START → s.rx_poll = false ∨ s.stop = false →
    s.rx_buf.wf → s.sin.wf → (∀ b ∈ noise, b ≠ 0xAA) →
    encodeFrame s.cfg.algo a p = .bytes bytes → s.link_in = noise ++ bytes ++ tail →
    s.agenda = rxTurns (noise.length + bytes.length) ++ ms →
    ∃ t, run (noise.length + bytes.length) s = .next t ∧
      t.rx_mode = Mode.RUNNING ∧ t.rx_st = RxSt.AWAIT_START ∧ t.rx_poll = true ∧
      t.link_in = tail ∧ t.agenda = ms ∧ t.cfg = s.cfg ∧ t.stop = s.stop ∧ TxAgree s t ∧
      (a.toNat < s.cfg.n → t.log = s.log ∧ t.sin.get a.toNat = s.sin.get a.toNat ++ p ∧
        ∀ a', a' ≠ a.toNat → t.sin.get a' = s.sin.get a') ∧
      (s.cfg.n ≤ a.toNat → t.sin = s.sin ∧
        ∃ len : Byte, len.toNat = p.length ∧ t.log = s.log ++ [.unroutableAddress a len])

/-- 20_memory.md R54: frames that follow each other on the link are delivered in wire order: each endpoint's
`sin` gains the concatenation of the payloads addressed to it. -/
def Obligations.FramesAreDeliveredInWireOrder : Prop :=
  ∀ (s : State) (frames : List (Byte × List Byte)) (tail : List Byte) (ms : List Move),
    s.rx_mode = Mode.RUNNING → s.rx_st = RxSt.AWAIT_START → s.stop = false → s.rx_buf.wf → s.sin.wf →
    (∀ f ∈ frames, 1 ≤ f.2.length ∧ f.2.length ≤ 255) →
    s.link_in = (frames.map (fun f => wireFrame s.cfg.algo f.1 f.2)).flatten ++ tail →
    s.agenda = rxTurns ((frames.map (fun f => f.2.length + 4)).sum) ++ ms →
    ∃ t, run ((frames.map (fun f => f.2.length + 4)).sum) s = .next t ∧
      t.rx_mode = Mode.RUNNING ∧ t.rx_st = RxSt.AWAIT_START ∧ t.link_in = tail ∧ t.agenda = ms ∧
      (∀ a, a < s.cfg.n → t.sin.get a =
        s.sin.get a ++ ((frames.filter (fun f => f.1.toNat == a)).map (fun f => f.2)).flatten) ∧
      (∀ a, s.cfg.n ≤ a → t.sin.get a = s.sin.get a) ∧
      t.log = s.log ++ ((frames.filter (fun f => s.cfg.n ≤ f.1.toNat)).map
        (fun f => .unroutableAddress f.1 (BitVec.ofNat 8 f.2.length)))

/-- 41_checksum.md R113, 90_conflicts.md C2: one flipped bit in ADDRESS, PAYLOAD or CHECKSUM of a frame ends it
in IN_CRCBAD: one MalformedFrame(CHECKSUM_MISMATCH), nothing delivered, and the next byte read in AWAIT_START. -/
def Obligations.OneBitErrorIsRejected : Prop :=
  ∀ (s : State) (a : Byte) (p bytes tail : List Byte) (ms : List Move) (i k : Nat),
    s.rx_mode = Mode.RUNNING → s.rx_st = RxSt.AWAIT_START → s.rx_poll = false ∨ s.stop = false →
    s.rx_buf.wf → s.cfg.algo.poly.getLsbD 0 = true →
    encodeFrame s.cfg.algo a p = .bytes bytes → i < bytes.length → i ≠ 0 → i ≠ 2 → k < 8 →
    s.link_in = flipBit bytes i k ++ tail → s.agenda = rxTurns bytes.length ++ ms →
    ∃ t a' expected received, run bytes.length s = .next t ∧
      t.rx_mode = Mode.RUNNING ∧ t.rx_st = RxSt.AWAIT_START ∧ t.rx_poll = true ∧ t.link_in = tail ∧
      t.agenda = ms ∧ t.sin = s.sin ∧ expected ≠ received ∧
      t.log = s.log ++ [.malformedChecksum a' (BitVec.ofNat 8 p.length) expected received]

/-- 43_inbound_reader.md R128, R129: with the link silent and `stop` set, RX halts within two turns, with no
event and nothing delivered. -/
def Obligations.RxHaltsOnSilentLink : Prop :=
  ∀ (s : State) (ms : List Move), s.rx_mode = Mode.RUNNING → s.stop = true → s.link_in = [] →
    s.agenda = rxTurns 2 ++ ms →
    run 2 s = .next { s with
      agenda := ms, rx_mode := Mode.STOPPED, rx_poll := true, w_ans := .ok, held := false }

/-! ### The outbound path, over runs of TX turns -/

/-- 44_outbound_writer.md R145: from TX_IDLE, a fetch and the byte steps that follow put exactly the encoded
frame of the chunk on the link. -/
def Obligations.SerializerSendsEncodedFrame : Prop :=
  ∀ (s : State) (a c : Nat) (ms : List Move),
    s.tx_mode = Mode.RUNNING → s.tx_st = TxSt.TX_IDLE → s.stop = false → s.cfg.n ≤ 256 →
    s.tx_buf.wf → s.sout.wf → a < s.cfg.n → s.sout.get a ≠ [] → c = min (s.sout.get a).length 255 →
    s.agenda = txTurns (c + 5) a ++ ms →
    ∃ t bytes, run (c + 5) s = .next t ∧
      encodeFrame s.cfg.algo (BitVec.ofNat 8 a) ((s.sout.get a).take c) = .bytes bytes ∧
      t.link_out = s.link_out ++ bytes ∧ t.tx_st = TxSt.TX_IDLE ∧ t.tx_mode = Mode.RUNNING ∧
      t.sout.get a = (s.sout.get a).drop c ∧ (∀ a', a' ≠ a → t.sout.get a' = s.sout.get a') ∧
      t.log = s.log ∧ t.stop = false ∧ t.cfg = s.cfg ∧ t.agenda = ms ∧ RxAgree s t

/-- 44_outbound_writer.md R146: a logical write of M bytes leaves as ⌈M/255⌉ frames, frame i carrying
`s[255·i .. min(255·(i+1), M))`, and the payloads concatenate to the write. -/
def Obligations.ChunkedWriteIsSentWhole : Prop :=
  ∀ (s : State) (a : Nat) (ms : List Move),
    s.tx_mode = Mode.RUNNING → s.tx_st = TxSt.TX_IDLE → s.stop = false → s.cfg.n ≤ 256 →
    s.tx_buf.wf → s.sout.wf → a < s.cfg.n →
    s.agenda = txTurns ((s.sout.get a).length + 5 * chunkCount (s.sout.get a).length) a ++ ms →
    ∃ t, run ((s.sout.get a).length + 5 * chunkCount (s.sout.get a).length) s = .next t ∧
      t.link_out = s.link_out ++
        ((chunksOf (s.sout.get a)).map (wireFrame s.cfg.algo (BitVec.ofNat 8 a))).flatten ∧
      t.sout.get a = [] ∧ t.tx_st = TxSt.TX_IDLE ∧ t.agenda = ms ∧
      (chunksOf (s.sout.get a)).length = ((s.sout.get a).length + 254) / 255 ∧
      (chunksOf (s.sout.get a)).flatten = s.sout.get a

/-- 44_outbound_writer.md R142, 70_reset_and_hazards.md R182: once `stop` is set, TX finishes the frame under
way, sending at most 259 bytes, and halts. -/
def Obligations.TxHaltsWithinOneFrame : Prop :=
  ∀ (s : State) (a : Nat) (ms : List Move), TxInv s → s.tx_mode = Mode.RUNNING → s.stop = true →
    s.agenda = txTurns 260 a ++ ms →
    ∃ t sent, run 260 s = .next t ∧ t.tx_mode = Mode.STOPPED ∧ t.tx_st = TxSt.TX_IDLE ∧ t.agenda = ms ∧
      t.link_out = s.link_out ++ sent ∧ sent.length ≤ 259 ∧ t.log = s.log ∧ t.sout = s.sout

/-! ### The checksum, the codec and the router as functions -/

/-- 41_checksum.md R111: for POLY = 0x07 and REFIN = false, CRC_UPDATE(reg, b) = T[reg ^ b] with
T[i] = CRC_UPDATE(0x00, i), and T is the printed table. -/
def Obligations.DefaultCrcMatchesPrintedTable : Prop :=
  ∀ (g : Crc8Algo) (reg b : Byte), g.poly = 0x07 → g.refin = false →
    crcUpdate g reg b = crcUpdate g 0x00 (reg ^^^ b) ∧
      crcTable[(reg ^^^ b).toNat]? = some (crcUpdate g 0x00 (reg ^^^ b))

/-- 41_checksum.md R112: the residue under no reflection and XOROUT 0, for every POLY and INIT; it does not hold
for every CRC8_ALGO. -/
def Obligations.CrcResidueIsZero : Prop :=
  (∀ (g : Crc8Algo) (m : List Byte), g.refin = false → g.refout = false → g.xorout = 0 →
    crc8 g (m ++ [crc8 g m]) = 0) ∧
  ∃ (g : Crc8Algo) (m : List Byte), crc8 g (m ++ [crc8 g m]) ≠ 0

/-- 41_checksum.md R113: with POLY[0] = 1, flipping exactly one bit of a message changes its CRC8. -/
def Obligations.OneBitErrorChangesCrc : Prop :=
  ∀ (g : Crc8Algo) (m : List Byte) (i k : Nat), g.poly.getLsbD 0 = true → i < m.length → k < 8 →
    crc8 g (flipBit m i k) ≠ crc8 g m

/-- 40_frame_codec.md R99, R101, 30_encoding.md R64: what Encode answers, the length of a frame, and that its
fields read back from its bytes. -/
def Obligations.EncodeMakesWellFormedFrames : Prop :=
  ∀ (g : Crc8Algo) (a : Byte) (p : List Byte),
    ((p.length = 0 ∨ 255 < p.length) → encodeFrame g a p = .oversizedPayload p.length) ∧
    (1 ≤ p.length → p.length ≤ 255 → ∃ len : Byte, len.toNat = p.length ∧
      encodeFrame g a p = .bytes ([0xAA, a, len] ++ p ++ [crc8 g ([a, len] ++ p)]) ∧
      ([0xAA, a, len] ++ p ++ [crc8 g ([a, len] ++ p)]).length = p.length + 4 ∧
      ∃ f, Frame.ofBytes ([0xAA, a, len] ++ p ++ [crc8 g ([a, len] ++ p)]) = some f ∧
        f.wf g = true ∧ f.address = a ∧ f.length = len ∧ f.payload = p)

/-- 42_router.md R116. -/
def Obligations.ResolveSplitsAtTableSize : Prop :=
  ∀ (c : Config) (a : Byte),
    (a.toNat < c.n → resolve c a = .stream a) ∧ (c.n ≤ a.toNat → resolve c a = .unroutableAddress a)

/-- 41_checksum.md R110: the condition bit C is the validation of R109, and the checksum byte TX sends is the
CRC8 of the frame it sends. -/
def Obligations.RunningRegisterIsTheChecksum : Prop :=
  ∀ s : State, Inv s →
    (s.rx_st = RxSt.READ_CHECKSUM →
      crcFinal s.cfg.algo s.rx_crc = crc8 s.cfg.algo ([s.rx_addr, s.rx_len] ++ s.rx_buf.upTo s.rx_len.toNat) ∧
      ∀ b, s.condC b = checksumValid s.cfg.algo s.rx_addr s.rx_len (s.rx_buf.upTo s.rx_len.toNat) b) ∧
    (s.tx_st = TxSt.TX_CRC →
      crcFinal s.cfg.algo s.tx_crc = crc8 s.cfg.algo ([s.tx_addr, s.tx_len] ++ s.tx_buf.upTo s.tx_len.toNat))

/-! ### Rules of the whole machine -/

/-- 10_state.md R18, 20_memory.md R58: once 1, `stop` reads 0 again only by RESET. -/
def Obligations.StopIsClearedOnlyByReset : Prop :=
  ∀ s t : State, step s = .next t → s.stop = true → t.stop = false → s.nextIsReset

/-- 43_inbound_reader.md R130, 44_outbound_writer.md R151, 70_reset_and_hazards.md R176: a direction that has
STOPPED or FAULTED keeps its mode and every register of its own until RESET. -/
def Obligations.EndedDirectionStaysEnded : Prop :=
  (∀ s t : State, step s = .next t → ¬ s.nextIsReset → s.rx_mode ≠ Mode.RUNNING →
    t.rx_mode = s.rx_mode ∧ t.rx_st = s.rx_st ∧ t.rx_poll = s.rx_poll ∧ t.rx_addr = s.rx_addr ∧
      t.rx_len = s.rx_len ∧ t.rx_rem = s.rx_rem ∧ t.rx_crc = s.rx_crc ∧ t.rx_buf = s.rx_buf ∧ t.sin = s.sin) ∧
  (∀ s t : State, step s = .next t → ¬ s.nextIsReset → s.tx_mode ≠ Mode.RUNNING →
    t.tx_mode = s.tx_mode ∧ t.tx_st = s.tx_st ∧ t.tx_addr = s.tx_addr ∧ t.tx_len = s.tx_len ∧
      t.tx_rem = s.tx_rem ∧ t.tx_crc = s.tx_crc ∧ t.tx_buf = s.tx_buf)

/-- 10_state.md R17, 70_reset_and_hazards.md R181: N and CRC8_ALGO change only while RESET is held, and an
attempt to change them otherwise is refused. -/
def Obligations.ConfigurationChangesOnlyUnderReset : Prop :=
  (∀ s t : State, step s = .next t → t.cfg ≠ s.cfg → s.held = true) ∧
  (∀ (s : State) (c : Config) (ms : List Move), s.agenda = .configure c :: ms → c.n ≤ 256 →
    (s.held = false → step s = .refused .configurationChange) ∧
    (s.held = true → step s = .next { s with agenda := ms, cfg := c }))

/-- 10_state.md R44, 60_exceptions.md R163 (1): a step appends at most one record to the log, and only RESET
empties it. -/
def Obligations.StepLogsAtMostOneEvent : Prop :=
  ∀ s t : State, step s = .next t →
    t.log = s.log ∨ (∃ e, t.log = s.log ++ [e]) ∨ (s.nextIsReset ∧ t.log = [])

/-- 40_frame_codec.md R96: a byte reaches a `sin` only in a turn of RX whose byte is the checksum of the frame
held, whose address is routable, and only at that address; what is added is an initial part of the payload. -/
def Obligations.DeliveryNeedsChecksumMatch : Prop :=
  ∀ s t : State, s.sin.wf → step s = .next t → t.sin ≠ s.sin →
    s.rx_mode = Mode.RUNNING ∧ s.rx_st = RxSt.READ_CHECKSUM ∧ s.rx_addr.toNat < s.cfg.n ∧
      s.link_in.head? = some (crcFinal s.cfg.algo s.rx_crc) ∧
      (∃ j, j ≤ s.rx_len.toNat ∧
        t.sin.get s.rx_addr.toNat = s.sin.get s.rx_addr.toNat ++ s.rx_buf.upTo j) ∧
      ∀ a, a ≠ s.rx_addr.toNat → t.sin.get a = s.sin.get a

/-- 20_memory.md R57: an RX turn reads no TX state and writes none, and a TX turn reads no RX state and writes
none; each logs the same records whatever the other direction holds. -/
def Obligations.DirectionsAreIndependent : Prop :=
  (∀ (s t u : State) (ans : WriteAnswer) (ms ns : List Move), RxAgree s t →
    s.agenda = .rx ans :: ms → t.agenda = .rx ans :: ns → step s = .next u →
    ∃ v es, step t = .next v ∧ RxAgree u v ∧ TxAgree t v ∧ u.log = s.log ++ es ∧ v.log = t.log ++ es) ∧
  (∀ (s t u : State) (p : Nat) (ans : ReadAnswer) (ms ns : List Move), TxAgree s t →
    s.agenda = .tx p ans :: ms → t.agenda = .tx p ans :: ns → step s = .next u →
    ∃ v es, step t = .next v ∧ TxAgree u v ∧ RxAgree t v ∧ u.log = s.log ++ es ∧ v.log = t.log ++ es)

/-- 43_inbound_reader.md R127, 44_outbound_writer.md R150: a step that an agent chooses completes only where it
is the one step its agent selects, so at most one of them is enabled. -/
def Obligations.StepCompletesOnlyWhenSelected : Prop :=
  (∀ (s t : State) (i : Instr), i.ofRx = true → exec i s = .next t → s.rxTakes i) ∧
  (∀ (s t : State) (i : Instr), i.ofTx = true → exec i s = .next t → s.txTakes i) ∧
  (∀ (s : State) (i j : Instr), s.rxTakes i → s.rxTakes j → i = j) ∧
  (∀ (s : State) (i j : Instr), s.txTakes i → s.txTakes j → i = j)

/-- 60_exceptions.md R172, 43_inbound_reader.md R129: an idle agent has no step. That a turn given to
it all the same changes nothing of the block is the model's choice (log 4). -/
def Obligations.IdleAgentWaits : Prop :=
  (∀ (s : State) (ans : WriteAnswer) (ms : List Move), s.rxIdle → s.agenda = .rx ans :: ms →
    s.rxSelect = none ∧ step s = .next { s with agenda := ms, w_ans := ans }) ∧
  (∀ (s : State) (p : Nat) (ans : ReadAnswer) (ms : List Move), s.txIdle → s.agenda = .tx p ans :: ms →
    s.txSelect = none ∧ step s = .next { s with agenda := ms, pick := p, r_ans := ans })

/-- 60_exceptions.md R163 (3), R171: a link fault signalled to a direction that has ended is not reported, and
the host's data actions change their own queue and nothing else. The model's readings are that a CTL code not
enabled changes nothing (log 9) and that draining drops the oldest bytes, for any count (log 20). -/
def Obligations.HostActionsTouchOnlyTheirOwn : Prop :=
  (∀ (s : State) (ms : List Move), s.agenda = .ctl 0x4 :: ms → s.rx_mode ≠ Mode.RUNNING →
    step s = .next { s with agenda := ms }) ∧
  (∀ (s : State) (ms : List Move), s.agenda = .ctl 0x6 :: ms → s.tx_mode ≠ Mode.RUNNING →
    step s = .next { s with agenda := ms }) ∧
  (∀ (s : State) (bs : List Byte) (ms : List Move), s.agenda = .appendLinkIn bs :: ms →
    step s = .next { s with agenda := ms, link_in := s.link_in ++ bs }) ∧
  (∀ (s : State) (c : Nat) (ms : List Move), s.agenda = .drainLinkOut c :: ms →
    step s = .next { s with agenda := ms, link_out := s.link_out.drop c }) ∧
  (∀ (s : State) (a : Nat) (bs : List Byte) (ms : List Move), s.agenda = .appendSout a bs :: ms →
    a < s.cfg.n → s.sout.wf →
    ∃ t, step s = .next t ∧ t = { s with agenda := ms, sout := t.sout } ∧
      t.sout.get a = s.sout.get a ++ bs ∧ ∀ a', a' ≠ a → t.sout.get a' = s.sout.get a')

/-! ### Liveness under weak fairness -/

/-- 70_reset_and_hazards.md R182, R186, 43_inbound_reader.md R128: in a weakly fair execution without RESET from n
on, with `stop` 1 at n, TX ends for good; so does RX where a decode call returns at n or later (`rx_poll` 1) or
the link is silent from some point on. Without such a premise RX may run for ever
(93_implementation_defined.md I15). Executions take any schedule of moves (log 4, log 18). -/
def Obligations.FairExecutionsHonourStop : Prop :=
  (∀ (σ : Nat → Move) (r : Nat → State) (n : Nat), IsExecution σ r → WeaklyFair σ r →
    (r n).stop = true → (∀ m, n ≤ m → σ m ≠ .ctl 0x0) →
    (∃ k, n ≤ k ∧ ∀ m, k ≤ m → (r m).tx_mode ≠ Mode.RUNNING) ∧
    ((∃ m, n ≤ m ∧ (r m).rx_poll = true) ∨ (∃ k, ∀ m, k ≤ m → (r m).link_in = []) →
      ∃ k, n ≤ k ∧ ∀ m, k ≤ m → (r m).rx_mode ≠ Mode.RUNNING)) ∧
  ∃ (σ : Nat → Move) (r : Nat → State), IsExecution σ r ∧ WeaklyFair σ r ∧
    ∀ m, (r m).stop = true ∧ (r m).rx_mode = Mode.RUNNING
end

