-- ==== Sys2Proof/Laws/Crc.lean ====
section
/-! SUPPORT. The laws of the CRC register: composition over concatenated bytes, and that no round, update or
final step loses information when POLY has its constant term. -/

namespace Sys2Proof.Machine

@[simp] theorem crcFold_nil (g : Crc8Algo) (r : Byte) : crcFold g r [] = r := rfl

@[simp] theorem crcFold_cons (g : Crc8Algo) (r b : Byte) (s : List Byte) :
    crcFold g r (b :: s) = crcFold g (crcUpdate g r b) s := rfl

theorem crcFold_append (g : Crc8Algo) (r : Byte) (s t : List Byte) :
    crcFold g r (s ++ t) = crcFold g (crcFold g r s) t := by simp [crcFold]

theorem crcRaw_append (g : Crc8Algo) (s t : List Byte) : crcRaw g (s ++ t) = crcFold g (crcRaw g s) t :=
  crcFold_append g _ s t

/-- The register over one more byte. -/
theorem crcRaw_snoc (g : Crc8Algo) (s : List Byte) (b : Byte) :
    crcRaw g (s ++ [b]) = crcUpdate g (crcRaw g s) b := by simp [crcRaw_append]

@[simp] theorem crcRaw_nil (g : Crc8Algo) : crcRaw g [] = g.init := rfl

/-- One more payload byte after the address and the length. -/
theorem crcRaw_header_snoc (g : Crc8Algo) (a l b : Byte) (s : List Byte) :
    crcRaw g ([a, l] ++ (s ++ [b])) = crcUpdate g (crcRaw g ([a, l] ++ s)) b := by
  rw [← List.append_assoc, crcRaw_snoc]

theorem crcRaw_header (g : Crc8Algo) (a l : Byte) :
    crcRaw g ([a, l] ++ []) = crcUpdate g (crcUpdate g g.init a) l := rfl

theorem reflect8_injective : Function.Injective reflect8 := by
  have h : ∀ v : Byte, reflect8 (reflect8 v) = v := by decide
  exact Function.LeftInverse.injective h

/-- A round loses nothing when POLY has its constant term: bit 0 of the result says which way it went. -/
theorem crcShift_injective {poly : Byte} (hp : poly.getLsbD 0 = true) : Function.Injective (crcShift poly) := by
  intro x y h
  have bit (v : Byte) (i : Nat) (hi : i < 7) :
      (crcShift poly v).getLsbD (i + 1) = ((v.getLsbD 7 && poly.getLsbD (i + 1)) ^^ v.getLsbD i) := by
    have h8 : i + 1 < 8 := by omega
    have h0 : i < 8 := by omega
    by_cases hv : v.getLsbD 7 = true
    · simp only [crcShift, hv, if_true, BitVec.getLsbD_xor, BitVec.getLsbD_shiftLeft]
      simp [h8, Bool.xor_comm]
    · simp only [crcShift, hv]
      simp [h8, h0]
  have low (v : Byte) : (crcShift poly v).getLsbD 0 = v.getLsbD 7 := by
    by_cases hv : v.getLsbD 7 = true
    · simp only [crcShift, hv, if_true, BitVec.getLsbD_xor, BitVec.getLsbD_shiftLeft, hp]; simp
    · simp only [crcShift, hv]; simp
  have h7 : x.getLsbD 7 = y.getLsbD 7 := by rw [← low x, ← low y, h]
  apply BitVec.eq_of_getLsbD_eq
  intro i hi
  rcases Nat.lt_or_ge i 7 with hlt | hge
  · have := (bit x i hlt).symm.trans ((congrArg (fun v : Byte => v.getLsbD (i + 1)) h).trans (bit y i hlt))
    rw [h7] at this
    exact (Bool.xor_right_inj).1 this
  · have : i = 7 := by omega
    rw [this]; exact h7

theorem crcShifts_injective {poly : Byte} (hp : poly.getLsbD 0 = true) (k : Nat) :
    Function.Injective (crcShifts poly k) := by
  induction k with
  | zero => exact fun _ _ h => h
  | succ k ih => exact fun _ _ h => crcShift_injective hp (ih h)

/-- An update keeps two different registers different. -/
theorem crcUpdate_injective_reg {g : Crc8Algo} (hp : g.poly.getLsbD 0 = true) (b : Byte) :
    Function.Injective (fun r => crcUpdate g r b) := by
  intro x y h
  exact (BitVec.xor_left_inj (z := _)).1 (crcShifts_injective hp 8 h)

/-- An update tells two different bytes apart. -/
theorem crcUpdate_injective_byte {g : Crc8Algo} (hp : g.poly.getLsbD 0 = true) (r : Byte) :
    Function.Injective (crcUpdate g r) := by
  intro x y h
  have h := (BitVec.xor_right_inj (z := _)).1 (crcShifts_injective hp 8 h)
  by_cases hr : g.refin = true
  · simp only [hr, if_true] at h; exact reflect8_injective h
  · simpa [hr] using h

/-- Bytes that follow keep two different registers different. -/
theorem crcFold_injective_reg {g : Crc8Algo} (hp : g.poly.getLsbD 0 = true) (s : List Byte) :
    Function.Injective (fun r => crcFold g r s) := by
  induction s with
  | nil => exact fun _ _ h => h
  | cons b s ih => exact fun _ _ h => crcUpdate_injective_reg hp b (ih h)

theorem crcFinal_injective (g : Crc8Algo) : Function.Injective (crcFinal g) := by
  intro x y h
  have h := (BitVec.xor_left_inj (z := _)).1 h
  by_cases hr : g.refout = true
  · simp only [hr, if_true] at h; exact reflect8_injective h
  · simpa [hr] using h

end Sys2Proof.Machine
end

