-- ==== Sys2Proof/Laws/Select.lean ====
section
/-! SUPPORT. What the decoder reads from a formed word, and what selector each agent forms. -/

namespace Sys2Proof.Machine

/-- The instruction of an RXB word, by its fields (30_encoding.md R73). -/
theorem decodeRxb_pack (st : StCode) (m z l c r : Bool) :
    decodeRxb (packRxb st m z l c r) = some (
      if st = 0 then (if m then .inSof else .inDrop)
      else if st = 1 then .inAddr
      else if st = 2 then (if z then .inLen0 else .inLen)
      else if st = 3 then (if l then .inPaylast else .inPay)
      else if st = 4 then (if c then (if r then .inDeliver else .inUnroutable) else .inCrcbad)
      else if st = 5 then .rxReservedSt5 else .rxReservedSt67) := by
  revert st m z l c r; decide

/-- The instruction of a TXB word, by its fields (30_encoding.md R74). -/
theorem decodeTxb_pack (st : StCode) (l e : Bool) :
    decodeTxb (packTxb st l e) = some (
      if st = 0 then (if e then .outSfault else .outFetch)
      else if st = 1 then .outStart
      else if st = 2 then .outAddr
      else if st = 3 then .outLen
      else if st = 4 then (if l then .outPaylast else .outPay)
      else if st = 5 then .outCrc else .txReserved) := by
  revert st l e; decide

/-- The instruction of the word that s and byte b form. -/
theorem decodeRxb_rxbWord (s : State) (b : Byte) :
    decodeRxb (s.rxbWord b) = some (
      if s.rx_st = 0 then (if condM b then .inSof else .inDrop)
      else if s.rx_st = 1 then .inAddr
      else if s.rx_st = 2 then (if condZ b then .inLen0 else .inLen)
      else if s.rx_st = 3 then (if s.condRxL then .inPaylast else .inPay)
      else if s.rx_st = 4 then (if s.condC b then (if s.condR then .inDeliver else .inUnroutable) else .inCrcbad)
      else if s.rx_st = 5 then .rxReservedSt5 else .rxReservedSt67) := by
  rw [State.rxbWord, decodeRxb_pack]
  generalize s.rx_st = st
  generalize condM b = m
  generalize condZ b = z
  generalize s.condRxL = l
  generalize s.condC b = c
  generalize s.condR = r
  revert st m z l c r; decide

/-- The instruction of the word that TX forms. -/
theorem decodeTxb_txbWord (s : State) :
    decodeTxb s.txbWord = some (
      if s.tx_st = 0 then (if s.condE then .outSfault else .outFetch)
      else if s.tx_st = 1 then .outStart
      else if s.tx_st = 2 then .outAddr
      else if s.tx_st = 3 then .outLen
      else if s.tx_st = 4 then (if s.condTxL then .outPaylast else .outPay)
      else if s.tx_st = 5 then .outCrc else .txReserved) := by
  rw [State.txbWord, decodeTxb_pack]
  generalize s.tx_st = st
  generalize s.condTxL = l
  generalize s.condE = e
  revert st l e; decide

theorem linkAvail_cons {s : State} {b : Byte} {rest : List Byte} (h : s.link_in = b :: rest) : s.linkAvail = true := by
  simp [State.linkAvail, h]

theorem linkAvail_nil {s : State} (h : s.link_in = []) : s.linkAvail = false := by
  simp [State.linkAvail, h]

/-- The enabling conditions of R80, spelt out. -/
theorem rxbEnabled_iff (s : State) :
    s.rxbEnabled = true ↔ s.rx_mode = Mode.RUNNING ∧ s.link_in ≠ [] ∧ (s.rx_poll = false ∨ s.stop = false) := by
  simp [State.rxbEnabled, State.linkAvail, and_assoc]

theorem rxIncompleteEnabled_iff (s : State) :
    s.rxIncompleteEnabled = true ↔ s.rx_mode = Mode.RUNNING ∧ s.rx_poll = false ∧ s.link_in = [] := by
  simp [State.rxIncompleteEnabled, State.linkAvail, and_assoc]

theorem rxHaltEnabled_iff (s : State) :
    s.rxHaltEnabled = true ↔ s.rx_mode = Mode.RUNNING ∧ s.rx_poll = true ∧ s.stop = true := by
  simp [State.rxHaltEnabled, and_assoc]

theorem txHaltEnabled_iff (s : State) :
    s.txHaltEnabled = true ↔ s.tx_mode = Mode.RUNNING ∧ s.tx_st = TxSt.TX_IDLE ∧ s.stop = true := by
  simp [State.txHaltEnabled, and_assoc]

theorem fetchEnabled_iff (s : State) :
    s.fetchEnabled = true ↔
      s.tx_mode = Mode.RUNNING ∧ s.tx_st = TxSt.TX_IDLE ∧ s.stop = false ∧ s.fetchEndpoint.isSome = true := by
  simp [State.fetchEnabled, and_assoc]

theorem txByteEnabled_iff (s : State) :
    s.txByteEnabled = true ↔ s.tx_mode = Mode.RUNNING ∧ s.tx_st ≠ TxSt.TX_IDLE := by
  simp [State.txByteEnabled]

/-- What RX's turn selects, when it is to take a byte. -/
theorem rxSelect_byte {s : State} {b : Byte} {rest : List Byte} (he : s.rxbEnabled = true)
    (hl : s.link_in = b :: rest) : s.rxSelect = some (.rxb (s.rxbWord b)) := by
  have h := (rxbEnabled_iff s).1 he
  have h1 : s.rxHaltEnabled = false := by
    rw [Bool.eq_false_iff, ne_eq, rxHaltEnabled_iff]
    rintro ⟨-, hp, hs⟩
    rcases h.2.2 with h | h <;> simp_all
  have h2 : s.rxIncompleteEnabled = false := by
    rw [Bool.eq_false_iff, ne_eq, rxIncompleteEnabled_iff]
    exact fun h' => h.2.1 h'.2.2
  simp [State.rxSelect, h1, h2, he, hl]

/-- Every selector RX forms, with what enables it. -/
theorem rxSelect_cases {s : State} {w : Selector} (h : s.rxSelect = some w) :
    (w = .ctl 0x3 ∧ s.rxHaltEnabled = true) ∨ (w = .ctl 0x2 ∧ s.rxIncompleteEnabled = true) ∨
      ∃ b rest, s.link_in = b :: rest ∧ s.rxbEnabled = true ∧ w = .rxb (s.rxbWord b) := by
  simp only [State.rxSelect] at h
  split at h
  · next he => exact .inl ⟨by simpa using h.symm, he⟩
  · split at h
    · next he => exact .inr (.inl ⟨by simpa using h.symm, he⟩)
    · split at h
      · next he =>
        cases hl : s.link_in with
        | nil => simp [hl] at h
        | cons b rest => exact .inr (.inr ⟨b, rest, rfl, he, by simpa [hl] using h.symm⟩)
      · simp at h

/-- Every selector TX forms, with what enables it. -/
theorem txSelect_cases {s : State} {w : Selector} (h : s.txSelect = some w) :
    (w = .ctl 0x5 ∧ s.txHaltEnabled = true) ∨ (w = .txb s.txbWord ∧ (s.fetchEnabled = true ∨ s.txByteEnabled = true)) := by
  simp only [State.txSelect] at h
  split at h
  · next he => exact .inl ⟨by simpa using h.symm, he⟩
  · split at h
    · next he => exact .inr ⟨by simpa using h.symm, by simpa using he⟩
    · simp at h

theorem fetchEndpoint_ready {s : State} {a : Nat} (h : s.fetchEndpoint = some a) : s.ready a = true := by
  simp only [State.fetchEndpoint] at h
  split at h
  · next hr => cases h; exact hr
  · exact List.find?_some h

/-- The endpoint served is below N and holds bytes (44_outbound_writer.md R134). -/
theorem fetchEndpoint_spec {s : State} {a : Nat} (h : s.fetchEndpoint = some a) :
    a < s.cfg.n ∧ 0 < (s.sout.get a).length := by
  have hr := fetchEndpoint_ready h
  simp only [State.ready, Bool.and_eq_true, decide_eq_true_eq] at hr
  exact hr

/-- A fetch attempt has an endpoint exactly where some endpoint below N holds bytes. -/
theorem fetchEndpoint_isSome (s : State) :
    s.fetchEndpoint.isSome = true ↔ ∃ a, a < s.cfg.n ∧ 0 < (s.sout.get a).length := by
  constructor
  · intro h
    obtain ⟨a, ha⟩ := Option.isSome_iff_exists.1 h
    exact ⟨a, fetchEndpoint_spec ha⟩
  · rintro ⟨a, hn, hl⟩
    simp only [State.fetchEndpoint]
    split
    · rfl
    · rw [List.find?_isSome]
      exact ⟨a, List.mem_range.2 hn, by simp [State.ready, State.streamAvail, hn, hl]⟩

/-- Arbitration serves the endpoint it prefers where that is ready. -/
theorem fetchEndpoint_pick {s : State} (h : s.ready s.pick = true) : s.fetchEndpoint = some s.pick := by
  simp [State.fetchEndpoint, h]

/-- The chunk holds c bytes, 1 ≤ c ≤ 255 (44_outbound_writer.md R134). -/
theorem chunk_length (s : State) (a : Nat) : (s.chunk a).length = s.chunkLen a := by
  simp [State.chunk, State.chunkLen, State.streamAvail]

theorem chunkLen_le (s : State) (a : Nat) : s.chunkLen a ≤ 255 := Nat.min_le_right _ _

theorem chunkLen_pos {s : State} {a : Nat} (h : 0 < (s.sout.get a).length) : 0 < s.chunkLen a := by
  simp only [State.chunkLen, State.streamAvail, Config.MAXLEN]; omega

theorem payloadIndex_eq {len rem : Byte} (h1 : 1 ≤ rem.toNat) (h2 : rem.toNat ≤ len.toNat) :
    payloadIndex len rem = some (len.toNat - rem.toNat) := by simp [payloadIndex, h1, h2]

theorem payloadIndex_some {len rem : Byte} {j : Nat} (h : payloadIndex len rem = some j) :
    1 ≤ rem.toNat ∧ rem.toNat ≤ len.toNat ∧ j = len.toNat - rem.toNat := by
  simp only [payloadIndex] at h
  split at h
  · next hr => exact ⟨hr.1, hr.2, by simpa using h.symm⟩
  · cases h

end Sys2Proof.Machine
end

