-- ==== Sys2Proof/Laws/State.lean ====
section
/-! SUPPORT. One lemma for each field under each named update of State. -/

namespace Sys2Proof.Machine

/-! ### linkSend -/

@[simp] theorem State.linkSend_cfg (s : State) (b : Byte) : (s.linkSend b).cfg = s.cfg := rfl
@[simp] theorem State.linkSend_stop (s : State) (b : Byte) : (s.linkSend b).stop = s.stop := rfl
@[simp] theorem State.linkSend_rx_mode (s : State) (b : Byte) : (s.linkSend b).rx_mode = s.rx_mode := rfl
@[simp] theorem State.linkSend_rx_st (s : State) (b : Byte) : (s.linkSend b).rx_st = s.rx_st := rfl
@[simp] theorem State.linkSend_rx_poll (s : State) (b : Byte) : (s.linkSend b).rx_poll = s.rx_poll := rfl
@[simp] theorem State.linkSend_rx_addr (s : State) (b : Byte) : (s.linkSend b).rx_addr = s.rx_addr := rfl
@[simp] theorem State.linkSend_rx_len (s : State) (b : Byte) : (s.linkSend b).rx_len = s.rx_len := rfl
@[simp] theorem State.linkSend_rx_rem (s : State) (b : Byte) : (s.linkSend b).rx_rem = s.rx_rem := rfl
@[simp] theorem State.linkSend_rx_crc (s : State) (b : Byte) : (s.linkSend b).rx_crc = s.rx_crc := rfl
@[simp] theorem State.linkSend_rx_buf (s : State) (b : Byte) : (s.linkSend b).rx_buf = s.rx_buf := rfl
@[simp] theorem State.linkSend_tx_mode (s : State) (b : Byte) : (s.linkSend b).tx_mode = s.tx_mode := rfl
@[simp] theorem State.linkSend_tx_st (s : State) (b : Byte) : (s.linkSend b).tx_st = s.tx_st := rfl
@[simp] theorem State.linkSend_tx_addr (s : State) (b : Byte) : (s.linkSend b).tx_addr = s.tx_addr := rfl
@[simp] theorem State.linkSend_tx_len (s : State) (b : Byte) : (s.linkSend b).tx_len = s.tx_len := rfl
@[simp] theorem State.linkSend_tx_rem (s : State) (b : Byte) : (s.linkSend b).tx_rem = s.tx_rem := rfl
@[simp] theorem State.linkSend_tx_crc (s : State) (b : Byte) : (s.linkSend b).tx_crc = s.tx_crc := rfl
@[simp] theorem State.linkSend_tx_buf (s : State) (b : Byte) : (s.linkSend b).tx_buf = s.tx_buf := rfl
@[simp] theorem State.linkSend_link_in (s : State) (b : Byte) : (s.linkSend b).link_in = s.link_in := rfl
@[simp] theorem State.linkSend_link_out (s : State) (b : Byte) : (s.linkSend b).link_out = s.link_out ++ [b] := rfl
@[simp] theorem State.linkSend_sin (s : State) (b : Byte) : (s.linkSend b).sin = s.sin := rfl
@[simp] theorem State.linkSend_sout (s : State) (b : Byte) : (s.linkSend b).sout = s.sout := rfl
@[simp] theorem State.linkSend_log (s : State) (b : Byte) : (s.linkSend b).log = s.log := rfl
@[simp] theorem State.linkSend_agenda (s : State) (b : Byte) : (s.linkSend b).agenda = s.agenda := rfl
@[simp] theorem State.linkSend_free (s : State) (b : Byte) : (s.linkSend b).free = s.free := rfl
@[simp] theorem State.linkSend_w_ans (s : State) (b : Byte) : (s.linkSend b).w_ans = s.w_ans := rfl
@[simp] theorem State.linkSend_r_ans (s : State) (b : Byte) : (s.linkSend b).r_ans = s.r_ans := rfl
@[simp] theorem State.linkSend_pick (s : State) (b : Byte) : (s.linkSend b).pick = s.pick := rfl
@[simp] theorem State.linkSend_held (s : State) (b : Byte) : (s.linkSend b).held = s.held := rfl
@[simp] theorem State.linkSend_phase (s : State) (b : Byte) : (s.linkSend b).phase = s.phase := rfl

/-! ### appendSin -/

@[simp] theorem State.appendSin_cfg (s : State) (a : Nat) (p : List Byte) : (s.appendSin a p).cfg = s.cfg := rfl
@[simp] theorem State.appendSin_stop (s : State) (a : Nat) (p : List Byte) : (s.appendSin a p).stop = s.stop := rfl
@[simp] theorem State.appendSin_rx_mode (s : State) (a : Nat) (p : List Byte) : (s.appendSin a p).rx_mode = s.rx_mode := rfl
@[simp] theorem State.appendSin_rx_st (s : State) (a : Nat) (p : List Byte) : (s.appendSin a p).rx_st = s.rx_st := rfl
@[simp] theorem State.appendSin_rx_poll (s : State) (a : Nat) (p : List Byte) : (s.appendSin a p).rx_poll = s.rx_poll := rfl
@[simp] theorem State.appendSin_rx_addr (s : State) (a : Nat) (p : List Byte) : (s.appendSin a p).rx_addr = s.rx_addr := rfl
@[simp] theorem State.appendSin_rx_len (s : State) (a : Nat) (p : List Byte) : (s.appendSin a p).rx_len = s.rx_len := rfl
@[simp] theorem State.appendSin_rx_rem (s : State) (a : Nat) (p : List Byte) : (s.appendSin a p).rx_rem = s.rx_rem := rfl
@[simp] theorem State.appendSin_rx_crc (s : State) (a : Nat) (p : List Byte) : (s.appendSin a p).rx_crc = s.rx_crc := rfl
@[simp] theorem State.appendSin_rx_buf (s : State) (a : Nat) (p : List Byte) : (s.appendSin a p).rx_buf = s.rx_buf := rfl
@[simp] theorem State.appendSin_tx_mode (s : State) (a : Nat) (p : List Byte) : (s.appendSin a p).tx_mode = s.tx_mode := rfl
@[simp] theorem State.appendSin_tx_st (s : State) (a : Nat) (p : List Byte) : (s.appendSin a p).tx_st = s.tx_st := rfl
@[simp] theorem State.appendSin_tx_addr (s : State) (a : Nat) (p : List Byte) : (s.appendSin a p).tx_addr = s.tx_addr := rfl
@[simp] theorem State.appendSin_tx_len (s : State) (a : Nat) (p : List Byte) : (s.appendSin a p).tx_len = s.tx_len := rfl
@[simp] theorem State.appendSin_tx_rem (s : State) (a : Nat) (p : List Byte) : (s.appendSin a p).tx_rem = s.tx_rem := rfl
@[simp] theorem State.appendSin_tx_crc (s : State) (a : Nat) (p : List Byte) : (s.appendSin a p).tx_crc = s.tx_crc := rfl
@[simp] theorem State.appendSin_tx_buf (s : State) (a : Nat) (p : List Byte) : (s.appendSin a p).tx_buf = s.tx_buf := rfl
@[simp] theorem State.appendSin_link_in (s : State) (a : Nat) (p : List Byte) : (s.appendSin a p).link_in = s.link_in := rfl
@[simp] theorem State.appendSin_link_out (s : State) (a : Nat) (p : List Byte) : (s.appendSin a p).link_out = s.link_out := rfl
@[simp] theorem State.appendSin_sin (s : State) (a : Nat) (p : List Byte) : (s.appendSin a p).sin = s.sin.set a (s.sin.get a ++ p) := rfl
@[simp] theorem State.appendSin_sout (s : State) (a : Nat) (p : List Byte) : (s.appendSin a p).sout = s.sout := rfl
@[simp] theorem State.appendSin_log (s : State) (a : Nat) (p : List Byte) : (s.appendSin a p).log = s.log := rfl
@[simp] theorem State.appendSin_agenda (s : State) (a : Nat) (p : List Byte) : (s.appendSin a p).agenda = s.agenda := rfl
@[simp] theorem State.appendSin_free (s : State) (a : Nat) (p : List Byte) : (s.appendSin a p).free = s.free := rfl
@[simp] theorem State.appendSin_w_ans (s : State) (a : Nat) (p : List Byte) : (s.appendSin a p).w_ans = s.w_ans := rfl
@[simp] theorem State.appendSin_r_ans (s : State) (a : Nat) (p : List Byte) : (s.appendSin a p).r_ans = s.r_ans := rfl
@[simp] theorem State.appendSin_pick (s : State) (a : Nat) (p : List Byte) : (s.appendSin a p).pick = s.pick := rfl
@[simp] theorem State.appendSin_held (s : State) (a : Nat) (p : List Byte) : (s.appendSin a p).held = s.held := rfl
@[simp] theorem State.appendSin_phase (s : State) (a : Nat) (p : List Byte) : (s.appendSin a p).phase = s.phase := rfl

/-! ### dropSout -/

@[simp] theorem State.dropSout_cfg (s : State) (a c : Nat) : (s.dropSout a c).cfg = s.cfg := rfl
@[simp] theorem State.dropSout_stop (s : State) (a c : Nat) : (s.dropSout a c).stop = s.stop := rfl
@[simp] theorem State.dropSout_rx_mode (s : State) (a c : Nat) : (s.dropSout a c).rx_mode = s.rx_mode := rfl
@[simp] theorem State.dropSout_rx_st (s : State) (a c : Nat) : (s.dropSout a c).rx_st = s.rx_st := rfl
@[simp] theorem State.dropSout_rx_poll (s : State) (a c : Nat) : (s.dropSout a c).rx_poll = s.rx_poll := rfl
@[simp] theorem State.dropSout_rx_addr (s : State) (a c : Nat) : (s.dropSout a c).rx_addr = s.rx_addr := rfl
@[simp] theorem State.dropSout_rx_len (s : State) (a c : Nat) : (s.dropSout a c).rx_len = s.rx_len := rfl
@[simp] theorem State.dropSout_rx_rem (s : State) (a c : Nat) : (s.dropSout a c).rx_rem = s.rx_rem := rfl
@[simp] theorem State.dropSout_rx_crc (s : State) (a c : Nat) : (s.dropSout a c).rx_crc = s.rx_crc := rfl
@[simp] theorem State.dropSout_rx_buf (s : State) (a c : Nat) : (s.dropSout a c).rx_buf = s.rx_buf := rfl
@[simp] theorem State.dropSout_tx_mode (s : State) (a c : Nat) : (s.dropSout a c).tx_mode = s.tx_mode := rfl
@[simp] theorem State.dropSout_tx_st (s : State) (a c : Nat) : (s.dropSout a c).tx_st = s.tx_st := rfl
@[simp] theorem State.dropSout_tx_addr (s : State) (a c : Nat) : (s.dropSout a c).tx_addr = s.tx_addr := rfl
@[simp] theorem State.dropSout_tx_len (s : State) (a c : Nat) : (s.dropSout a c).tx_len = s.tx_len := rfl
@[simp] theorem State.dropSout_tx_rem (s : State) (a c : Nat) : (s.dropSout a c).tx_rem = s.tx_rem := rfl
@[simp] theorem State.dropSout_tx_crc (s : State) (a c : Nat) : (s.dropSout a c).tx_crc = s.tx_crc := rfl
@[simp] theorem State.dropSout_tx_buf (s : State) (a c : Nat) : (s.dropSout a c).tx_buf = s.tx_buf := rfl
@[simp] theorem State.dropSout_link_in (s : State) (a c : Nat) : (s.dropSout a c).link_in = s.link_in := rfl
@[simp] theorem State.dropSout_link_out (s : State) (a c : Nat) : (s.dropSout a c).link_out = s.link_out := rfl
@[simp] theorem State.dropSout_sin (s : State) (a c : Nat) : (s.dropSout a c).sin = s.sin := rfl
@[simp] theorem State.dropSout_sout (s : State) (a c : Nat) : (s.dropSout a c).sout = s.sout.set a ((s.sout.get a).drop c) := rfl
@[simp] theorem State.dropSout_log (s : State) (a c : Nat) : (s.dropSout a c).log = s.log := rfl
@[simp] theorem State.dropSout_agenda (s : State) (a c : Nat) : (s.dropSout a c).agenda = s.agenda := rfl
@[simp] theorem State.dropSout_free (s : State) (a c : Nat) : (s.dropSout a c).free = s.free := rfl
@[simp] theorem State.dropSout_w_ans (s : State) (a c : Nat) : (s.dropSout a c).w_ans = s.w_ans := rfl
@[simp] theorem State.dropSout_r_ans (s : State) (a c : Nat) : (s.dropSout a c).r_ans = s.r_ans := rfl
@[simp] theorem State.dropSout_pick (s : State) (a c : Nat) : (s.dropSout a c).pick = s.pick := rfl
@[simp] theorem State.dropSout_held (s : State) (a c : Nat) : (s.dropSout a c).held = s.held := rfl
@[simp] theorem State.dropSout_phase (s : State) (a c : Nat) : (s.dropSout a c).phase = s.phase := rfl

/-! ### raise -/

@[simp] theorem State.raise_cfg (s : State) (e : Event) : (s.raise e).cfg = s.cfg := rfl
@[simp] theorem State.raise_stop (s : State) (e : Event) : (s.raise e).stop = s.stop := rfl
@[simp] theorem State.raise_rx_mode (s : State) (e : Event) : (s.raise e).rx_mode = s.rx_mode := rfl
@[simp] theorem State.raise_rx_st (s : State) (e : Event) : (s.raise e).rx_st = s.rx_st := rfl
@[simp] theorem State.raise_rx_poll (s : State) (e : Event) : (s.raise e).rx_poll = s.rx_poll := rfl
@[simp] theorem State.raise_rx_addr (s : State) (e : Event) : (s.raise e).rx_addr = s.rx_addr := rfl
@[simp] theorem State.raise_rx_len (s : State) (e : Event) : (s.raise e).rx_len = s.rx_len := rfl
@[simp] theorem State.raise_rx_rem (s : State) (e : Event) : (s.raise e).rx_rem = s.rx_rem := rfl
@[simp] theorem State.raise_rx_crc (s : State) (e : Event) : (s.raise e).rx_crc = s.rx_crc := rfl
@[simp] theorem State.raise_rx_buf (s : State) (e : Event) : (s.raise e).rx_buf = s.rx_buf := rfl
@[simp] theorem State.raise_tx_mode (s : State) (e : Event) : (s.raise e).tx_mode = s.tx_mode := rfl
@[simp] theorem State.raise_tx_st (s : State) (e : Event) : (s.raise e).tx_st = s.tx_st := rfl
@[simp] theorem State.raise_tx_addr (s : State) (e : Event) : (s.raise e).tx_addr = s.tx_addr := rfl
@[simp] theorem State.raise_tx_len (s : State) (e : Event) : (s.raise e).tx_len = s.tx_len := rfl
@[simp] theorem State.raise_tx_rem (s : State) (e : Event) : (s.raise e).tx_rem = s.tx_rem := rfl
@[simp] theorem State.raise_tx_crc (s : State) (e : Event) : (s.raise e).tx_crc = s.tx_crc := rfl
@[simp] theorem State.raise_tx_buf (s : State) (e : Event) : (s.raise e).tx_buf = s.tx_buf := rfl
@[simp] theorem State.raise_link_in (s : State) (e : Event) : (s.raise e).link_in = s.link_in := rfl
@[simp] theorem State.raise_link_out (s : State) (e : Event) : (s.raise e).link_out = s.link_out := rfl
@[simp] theorem State.raise_sin (s : State) (e : Event) : (s.raise e).sin = s.sin := rfl
@[simp] theorem State.raise_sout (s : State) (e : Event) : (s.raise e).sout = s.sout := rfl
@[simp] theorem State.raise_log (s : State) (e : Event) : (s.raise e).log = s.log ++ [e] := rfl
@[simp] theorem State.raise_agenda (s : State) (e : Event) : (s.raise e).agenda = s.agenda := rfl
@[simp] theorem State.raise_free (s : State) (e : Event) : (s.raise e).free = s.free := rfl
@[simp] theorem State.raise_w_ans (s : State) (e : Event) : (s.raise e).w_ans = s.w_ans := rfl
@[simp] theorem State.raise_r_ans (s : State) (e : Event) : (s.raise e).r_ans = s.r_ans := rfl
@[simp] theorem State.raise_pick (s : State) (e : Event) : (s.raise e).pick = s.pick := rfl
@[simp] theorem State.raise_held (s : State) (e : Event) : (s.raise e).held = s.held := rfl
@[simp] theorem State.raise_phase (s : State) (e : Event) : (s.raise e).phase = s.phase := rfl

/-! ### toAwaitStart -/

@[simp] theorem State.toAwaitStart_cfg (s : State) : (s.toAwaitStart).cfg = s.cfg := rfl
@[simp] theorem State.toAwaitStart_stop (s : State) : (s.toAwaitStart).stop = s.stop := rfl
@[simp] theorem State.toAwaitStart_rx_mode (s : State) : (s.toAwaitStart).rx_mode = s.rx_mode := rfl
@[simp] theorem State.toAwaitStart_rx_st (s : State) : (s.toAwaitStart).rx_st = RxSt.AWAIT_START := rfl
@[simp] theorem State.toAwaitStart_rx_poll (s : State) : (s.toAwaitStart).rx_poll = true := rfl
@[simp] theorem State.toAwaitStart_rx_addr (s : State) : (s.toAwaitStart).rx_addr = s.rx_addr := rfl
@[simp] theorem State.toAwaitStart_rx_len (s : State) : (s.toAwaitStart).rx_len = s.rx_len := rfl
@[simp] theorem State.toAwaitStart_rx_rem (s : State) : (s.toAwaitStart).rx_rem = s.rx_rem := rfl
@[simp] theorem State.toAwaitStart_rx_crc (s : State) : (s.toAwaitStart).rx_crc = s.rx_crc := rfl
@[simp] theorem State.toAwaitStart_rx_buf (s : State) : (s.toAwaitStart).rx_buf = s.rx_buf := rfl
@[simp] theorem State.toAwaitStart_tx_mode (s : State) : (s.toAwaitStart).tx_mode = s.tx_mode := rfl
@[simp] theorem State.toAwaitStart_tx_st (s : State) : (s.toAwaitStart).tx_st = s.tx_st := rfl
@[simp] theorem State.toAwaitStart_tx_addr (s : State) : (s.toAwaitStart).tx_addr = s.tx_addr := rfl
@[simp] theorem State.toAwaitStart_tx_len (s : State) : (s.toAwaitStart).tx_len = s.tx_len := rfl
@[simp] theorem State.toAwaitStart_tx_rem (s : State) : (s.toAwaitStart).tx_rem = s.tx_rem := rfl
@[simp] theorem State.toAwaitStart_tx_crc (s : State) : (s.toAwaitStart).tx_crc = s.tx_crc := rfl
@[simp] theorem State.toAwaitStart_tx_buf (s : State) : (s.toAwaitStart).tx_buf = s.tx_buf := rfl
@[simp] theorem State.toAwaitStart_link_in (s : State) : (s.toAwaitStart).link_in = s.link_in := rfl
@[simp] theorem State.toAwaitStart_link_out (s : State) : (s.toAwaitStart).link_out = s.link_out := rfl
@[simp] theorem State.toAwaitStart_sin (s : State) : (s.toAwaitStart).sin = s.sin := rfl
@[simp] theorem State.toAwaitStart_sout (s : State) : (s.toAwaitStart).sout = s.sout := rfl
@[simp] theorem State.toAwaitStart_log (s : State) : (s.toAwaitStart).log = s.log := rfl
@[simp] theorem State.toAwaitStart_agenda (s : State) : (s.toAwaitStart).agenda = s.agenda := rfl
@[simp] theorem State.toAwaitStart_free (s : State) : (s.toAwaitStart).free = s.free := rfl
@[simp] theorem State.toAwaitStart_w_ans (s : State) : (s.toAwaitStart).w_ans = s.w_ans := rfl
@[simp] theorem State.toAwaitStart_r_ans (s : State) : (s.toAwaitStart).r_ans = s.r_ans := rfl
@[simp] theorem State.toAwaitStart_pick (s : State) : (s.toAwaitStart).pick = s.pick := rfl
@[simp] theorem State.toAwaitStart_held (s : State) : (s.toAwaitStart).held = s.held := rfl
@[simp] theorem State.toAwaitStart_phase (s : State) : (s.toAwaitStart).phase = s.phase := rfl

/-! ### linkFault_rx -/

@[simp] theorem State.linkFault_rx_cfg (s : State) : (s.linkFault .rx).cfg = s.cfg := rfl
@[simp] theorem State.linkFault_rx_stop (s : State) : (s.linkFault .rx).stop = s.stop := rfl
@[simp] theorem State.linkFault_rx_rx_mode (s : State) : (s.linkFault .rx).rx_mode = Mode.FAULTED := rfl
@[simp] theorem State.linkFault_rx_rx_st (s : State) : (s.linkFault .rx).rx_st = s.rx_st := rfl
@[simp] theorem State.linkFault_rx_rx_poll (s : State) : (s.linkFault .rx).rx_poll = s.rx_poll := rfl
@[simp] theorem State.linkFault_rx_rx_addr (s : State) : (s.linkFault .rx).rx_addr = s.rx_addr := rfl
@[simp] theorem State.linkFault_rx_rx_len (s : State) : (s.linkFault .rx).rx_len = s.rx_len := rfl
@[simp] theorem State.linkFault_rx_rx_rem (s : State) : (s.linkFault .rx).rx_rem = s.rx_rem := rfl
@[simp] theorem State.linkFault_rx_rx_crc (s : State) : (s.linkFault .rx).rx_crc = s.rx_crc := rfl
@[simp] theorem State.linkFault_rx_rx_buf (s : State) : (s.linkFault .rx).rx_buf = s.rx_buf := rfl
@[simp] theorem State.linkFault_rx_tx_mode (s : State) : (s.linkFault .rx).tx_mode = s.tx_mode := rfl
@[simp] theorem State.linkFault_rx_tx_st (s : State) : (s.linkFault .rx).tx_st = s.tx_st := rfl
@[simp] theorem State.linkFault_rx_tx_addr (s : State) : (s.linkFault .rx).tx_addr = s.tx_addr := rfl
@[simp] theorem State.linkFault_rx_tx_len (s : State) : (s.linkFault .rx).tx_len = s.tx_len := rfl
@[simp] theorem State.linkFault_rx_tx_rem (s : State) : (s.linkFault .rx).tx_rem = s.tx_rem := rfl
@[simp] theorem State.linkFault_rx_tx_crc (s : State) : (s.linkFault .rx).tx_crc = s.tx_crc := rfl
@[simp] theorem State.linkFault_rx_tx_buf (s : State) : (s.linkFault .rx).tx_buf = s.tx_buf := rfl
@[simp] theorem State.linkFault_rx_link_in (s : State) : (s.linkFault .rx).link_in = s.link_in := rfl
@[simp] theorem State.linkFault_rx_link_out (s : State) : (s.linkFault .rx).link_out = s.link_out := rfl
@[simp] theorem State.linkFault_rx_sin (s : State) : (s.linkFault .rx).sin = s.sin := rfl
@[simp] theorem State.linkFault_rx_sout (s : State) : (s.linkFault .rx).sout = s.sout := rfl
@[simp] theorem State.linkFault_rx_log (s : State) : (s.linkFault .rx).log = s.log ++ [.linkFault .rx] := rfl
@[simp] theorem State.linkFault_rx_agenda (s : State) : (s.linkFault .rx).agenda = s.agenda := rfl
@[simp] theorem State.linkFault_rx_free (s : State) : (s.linkFault .rx).free = s.free := rfl
@[simp] theorem State.linkFault_rx_w_ans (s : State) : (s.linkFault .rx).w_ans = s.w_ans := rfl
@[simp] theorem State.linkFault_rx_r_ans (s : State) : (s.linkFault .rx).r_ans = s.r_ans := rfl
@[simp] theorem State.linkFault_rx_pick (s : State) : (s.linkFault .rx).pick = s.pick := rfl
@[simp] theorem State.linkFault_rx_held (s : State) : (s.linkFault .rx).held = s.held := rfl
@[simp] theorem State.linkFault_rx_phase (s : State) : (s.linkFault .rx).phase = s.phase := rfl

/-! ### linkFault_tx -/

@[simp] theorem State.linkFault_tx_cfg (s : State) : (s.linkFault .tx).cfg = s.cfg := rfl
@[simp] theorem State.linkFault_tx_stop (s : State) : (s.linkFault .tx).stop = s.stop := rfl
@[simp] theorem State.linkFault_tx_rx_mode (s : State) : (s.linkFault .tx).rx_mode = s.rx_mode := rfl
@[simp] theorem State.linkFault_tx_rx_st (s : State) : (s.linkFault .tx).rx_st = s.rx_st := rfl
@[simp] theorem State.linkFault_tx_rx_poll (s : State) : (s.linkFault .tx).rx_poll = s.rx_poll := rfl
@[simp] theorem State.linkFault_tx_rx_addr (s : State) : (s.linkFault .tx).rx_addr = s.rx_addr := rfl
@[simp] theorem State.linkFault_tx_rx_len (s : State) : (s.linkFault .tx).rx_len = s.rx_len := rfl
@[simp] theorem State.linkFault_tx_rx_rem (s : State) : (s.linkFault .tx).rx_rem = s.rx_rem := rfl
@[simp] theorem State.linkFault_tx_rx_crc (s : State) : (s.linkFault .tx).rx_crc = s.rx_crc := rfl
@[simp] theorem State.linkFault_tx_rx_buf (s : State) : (s.linkFault .tx).rx_buf = s.rx_buf := rfl
@[simp] theorem State.linkFault_tx_tx_mode (s : State) : (s.linkFault .tx).tx_mode = Mode.FAULTED := rfl
@[simp] theorem State.linkFault_tx_tx_st (s : State) : (s.linkFault .tx).tx_st = s.tx_st := rfl
@[simp] theorem State.linkFault_tx_tx_addr (s : State) : (s.linkFault .tx).tx_addr = s.tx_addr := rfl
@[simp] theorem State.linkFault_tx_tx_len (s : State) : (s.linkFault .tx).tx_len = s.tx_len := rfl
@[simp] theorem State.linkFault_tx_tx_rem (s : State) : (s.linkFault .tx).tx_rem = s.tx_rem := rfl
@[simp] theorem State.linkFault_tx_tx_crc (s : State) : (s.linkFault .tx).tx_crc = s.tx_crc := rfl
@[simp] theorem State.linkFault_tx_tx_buf (s : State) : (s.linkFault .tx).tx_buf = s.tx_buf := rfl
@[simp] theorem State.linkFault_tx_link_in (s : State) : (s.linkFault .tx).link_in = s.link_in := rfl
@[simp] theorem State.linkFault_tx_link_out (s : State) : (s.linkFault .tx).link_out = s.link_out := rfl
@[simp] theorem State.linkFault_tx_sin (s : State) : (s.linkFault .tx).sin = s.sin := rfl
@[simp] theorem State.linkFault_tx_sout (s : State) : (s.linkFault .tx).sout = s.sout := rfl
@[simp] theorem State.linkFault_tx_log (s : State) : (s.linkFault .tx).log = s.log ++ [.linkFault .tx] := rfl
@[simp] theorem State.linkFault_tx_agenda (s : State) : (s.linkFault .tx).agenda = s.agenda := rfl
@[simp] theorem State.linkFault_tx_free (s : State) : (s.linkFault .tx).free = s.free := rfl
@[simp] theorem State.linkFault_tx_w_ans (s : State) : (s.linkFault .tx).w_ans = s.w_ans := rfl
@[simp] theorem State.linkFault_tx_r_ans (s : State) : (s.linkFault .tx).r_ans = s.r_ans := rfl
@[simp] theorem State.linkFault_tx_pick (s : State) : (s.linkFault .tx).pick = s.pick := rfl
@[simp] theorem State.linkFault_tx_held (s : State) : (s.linkFault .tx).held = s.held := rfl
@[simp] theorem State.linkFault_tx_phase (s : State) : (s.linkFault .tx).phase = s.phase := rfl

/-! ### release -/

@[simp] theorem State.release_cfg (s : State) : (s.release).cfg = s.cfg := rfl
@[simp] theorem State.release_stop (s : State) : (s.release).stop = s.stop := rfl
@[simp] theorem State.release_rx_mode (s : State) : (s.release).rx_mode = s.rx_mode := rfl
@[simp] theorem State.release_rx_st (s : State) : (s.release).rx_st = s.rx_st := rfl
@[simp] theorem State.release_rx_poll (s : State) : (s.release).rx_poll = s.rx_poll := rfl
@[simp] theorem State.release_rx_addr (s : State) : (s.release).rx_addr = s.rx_addr := rfl
@[simp] theorem State.release_rx_len (s : State) : (s.release).rx_len = s.rx_len := rfl
@[simp] theorem State.release_rx_rem (s : State) : (s.release).rx_rem = s.rx_rem := rfl
@[simp] theorem State.release_rx_crc (s : State) : (s.release).rx_crc = s.rx_crc := rfl
@[simp] theorem State.release_rx_buf (s : State) : (s.release).rx_buf = s.rx_buf := rfl
@[simp] theorem State.release_tx_mode (s : State) : (s.release).tx_mode = s.tx_mode := rfl
@[simp] theorem State.release_tx_st (s : State) : (s.release).tx_st = s.tx_st := rfl
@[simp] theorem State.release_tx_addr (s : State) : (s.release).tx_addr = s.tx_addr := rfl
@[simp] theorem State.release_tx_len (s : State) : (s.release).tx_len = s.tx_len := rfl
@[simp] theorem State.release_tx_rem (s : State) : (s.release).tx_rem = s.tx_rem := rfl
@[simp] theorem State.release_tx_crc (s : State) : (s.release).tx_crc = s.tx_crc := rfl
@[simp] theorem State.release_tx_buf (s : State) : (s.release).tx_buf = s.tx_buf := rfl
@[simp] theorem State.release_link_in (s : State) : (s.release).link_in = s.link_in := rfl
@[simp] theorem State.release_link_out (s : State) : (s.release).link_out = s.link_out := rfl
@[simp] theorem State.release_sin (s : State) : (s.release).sin = s.sin := rfl
@[simp] theorem State.release_sout (s : State) : (s.release).sout = s.sout := rfl
@[simp] theorem State.release_log (s : State) : (s.release).log = s.log := rfl
@[simp] theorem State.release_agenda (s : State) : (s.release).agenda = s.agenda := rfl
@[simp] theorem State.release_free (s : State) : (s.release).free = s.free := rfl
@[simp] theorem State.release_w_ans (s : State) : (s.release).w_ans = s.w_ans := rfl
@[simp] theorem State.release_r_ans (s : State) : (s.release).r_ans = s.r_ans := rfl
@[simp] theorem State.release_pick (s : State) : (s.release).pick = s.pick := rfl
@[simp] theorem State.release_held (s : State) : (s.release).held = false := rfl
@[simp] theorem State.release_phase (s : State) : (s.release).phase = s.phase := rfl

/-! ### applyReset -/

@[simp] theorem State.applyReset_cfg (s : State) : (s.applyReset).cfg = s.cfg := rfl
@[simp] theorem State.applyReset_stop (s : State) : (s.applyReset).stop = false := rfl
@[simp] theorem State.applyReset_rx_mode (s : State) : (s.applyReset).rx_mode = Mode.RUNNING := rfl
@[simp] theorem State.applyReset_rx_st (s : State) : (s.applyReset).rx_st = RxSt.AWAIT_START := rfl
@[simp] theorem State.applyReset_rx_poll (s : State) : (s.applyReset).rx_poll = true := rfl
@[simp] theorem State.applyReset_rx_addr (s : State) : (s.applyReset).rx_addr = Config.freeByte s.free := rfl
@[simp] theorem State.applyReset_rx_len (s : State) : (s.applyReset).rx_len = Config.freeByte (s.free + 1) := rfl
@[simp] theorem State.applyReset_rx_rem (s : State) : (s.applyReset).rx_rem = Config.freeByte (s.free + 2) := rfl
@[simp] theorem State.applyReset_rx_crc (s : State) : (s.applyReset).rx_crc = Config.freeByte (s.free + 3) := rfl
@[simp] theorem State.applyReset_rx_buf (s : State) : (s.applyReset).rx_buf = Memory.unspecified (s.free + 8) := by simp only [State.applyReset]
@[simp] theorem State.applyReset_tx_mode (s : State) : (s.applyReset).tx_mode = Mode.RUNNING := rfl
@[simp] theorem State.applyReset_tx_st (s : State) : (s.applyReset).tx_st = TxSt.TX_IDLE := rfl
@[simp] theorem State.applyReset_tx_addr (s : State) : (s.applyReset).tx_addr = Config.freeByte (s.free + 4) := rfl
@[simp] theorem State.applyReset_tx_len (s : State) : (s.applyReset).tx_len = Config.freeByte (s.free + 5) := rfl
@[simp] theorem State.applyReset_tx_rem (s : State) : (s.applyReset).tx_rem = Config.freeByte (s.free + 6) := rfl
@[simp] theorem State.applyReset_tx_crc (s : State) : (s.applyReset).tx_crc = Config.freeByte (s.free + 7) := rfl
@[simp] theorem State.applyReset_tx_buf (s : State) : (s.applyReset).tx_buf = Memory.unspecified (s.free + 8 + Config.BUFLEN) := by simp only [State.applyReset]
@[simp] theorem State.applyReset_link_in (s : State) : (s.applyReset).link_in = s.link_in := rfl
@[simp] theorem State.applyReset_link_out (s : State) : (s.applyReset).link_out = s.link_out := rfl
@[simp] theorem State.applyReset_sin (s : State) : (s.applyReset).sin = s.sin := rfl
@[simp] theorem State.applyReset_sout (s : State) : (s.applyReset).sout = s.sout := rfl
@[simp] theorem State.applyReset_log (s : State) : (s.applyReset).log = [] := rfl
@[simp] theorem State.applyReset_agenda (s : State) : (s.applyReset).agenda = s.agenda := rfl
@[simp] theorem State.applyReset_free (s : State) : (s.applyReset).free = s.free + resetFreeCount := by simp only [State.applyReset]
@[simp] theorem State.applyReset_w_ans (s : State) : (s.applyReset).w_ans = s.w_ans := rfl
@[simp] theorem State.applyReset_r_ans (s : State) : (s.applyReset).r_ans = s.r_ans := rfl
@[simp] theorem State.applyReset_pick (s : State) : (s.applyReset).pick = s.pick := rfl
@[simp] theorem State.applyReset_held (s : State) : (s.applyReset).held = true := rfl
@[simp] theorem State.applyReset_phase (s : State) : (s.applyReset).phase = .up := rfl

end Sys2Proof.Machine
end

