-- ==== Sys2Proof/Laws/Steps.lean ====
section
/-! SUPPORT. One lemma for each shared operation that says once everything it can do: the RXB step, the fetch
attempt, the TX byte step, the control step, a turn of an agent, and a CTL code. -/

namespace Sys2Proof.Machine

/-! ### The RXB step -/

theorem rxbStep_cases (i : Instr) (s : State) (f : Byte → State → Result) :
    rxbStep i s f = .refused .notEnabled ∨
      ∃ b rest, s.link_in = b :: rest ∧ s.rxbEnabled = true ∧ decodeRxb (s.rxbWord b) = some i ∧
        rxbStep i s f = f b { s with link_in := rest } := by
  cases hl : s.link_in with
  | nil => simp [rxbStep, hl]
  | cons b rest =>
    simp only [rxbStep, hl]
    split
    · next h =>
      rw [Bool.and_eq_true, beq_iff_eq] at h
      exact .inr ⟨b, rest, rfl, h.1, h.2, rfl⟩
    · exact .inl rfl

theorem rxbStep_eq {i : Instr} {s : State} {f : Byte → State → Result} {b : Byte} {rest : List Byte}
    (hl : s.link_in = b :: rest) (he : s.rxbEnabled = true) (hd : decodeRxb (s.rxbWord b) = some i) :
    rxbStep i s f = f b { s with link_in := rest } := by
  simp [rxbStep, hl, he, hd]

/-! ### The TX steps -/

theorem fetchStep_cases (i : Instr) (s : State) (f : Nat → Result) :
    fetchStep i s f = .refused .notEnabled ∨
      ∃ a, s.fetchEndpoint = some a ∧ s.fetchEnabled = true ∧ decodeTxb s.txbWord = some i ∧
        fetchStep i s f = f a := by
  cases hl : s.fetchEndpoint with
  | none => simp [fetchStep, hl]
  | some a =>
    simp only [fetchStep, hl]
    split
    · next h =>
      rw [Bool.and_eq_true, beq_iff_eq] at h
      exact .inr ⟨a, rfl, h.1, h.2, rfl⟩
    · exact .inl rfl

theorem fetchStep_eq {i : Instr} {s : State} {f : Nat → Result} {a : Nat} (ha : s.fetchEndpoint = some a)
    (he : s.fetchEnabled = true) (hd : decodeTxb s.txbWord = some i) : fetchStep i s f = f a := by
  simp [fetchStep, ha, he, hd]

theorem txbStep_cases (i : Instr) (s : State) (r : Result) :
    txbStep i s r = .refused .notEnabled ∨
      (s.txByteEnabled = true ∧ decodeTxb s.txbWord = some i ∧ txbStep i s r = r) := by
  simp only [txbStep]
  split
  · next h =>
    rw [Bool.and_eq_true, beq_iff_eq] at h
    exact .inr ⟨h.1, h.2, rfl⟩
  · exact .inl rfl

theorem txbStep_eq {i : Instr} {s : State} {r : Result} (he : s.txByteEnabled = true)
    (hd : decodeTxb s.txbWord = some i) : txbStep i s r = r := by
  simp [txbStep, he, hd]

/-! ### The control steps -/

theorem ctlStep_cases (e : Bool) (t : State) :
    (e = true ∧ ctlStep e t = .next t) ∨ (e = false ∧ ctlStep e t = .refused .notEnabled) := by
  cases e <;> simp [ctlStep]

@[simp] theorem ctlStep_true (t : State) : ctlStep true t = .next t := rfl
@[simp] theorem ctlStep_false (t : State) : ctlStep false t = .refused .notEnabled := rfl

theorem ctlStep_next {e : Bool} {t u : State} (h : ctlStep e t = .next u) : e = true ∧ u = t := by
  cases e
  · cases h
  · exact ⟨rfl, by cases h; rfl⟩

/-! ### Decoding a selector that an agent formed -/

theorem decode_rxbWord (s : State) (b : Byte) : ∃ i, decode (.rxb (s.rxbWord b)) = .ok i ∧
    decodeRxb (s.rxbWord b) = some i :=
  ⟨_, by rw [decode, decodeRxb_rxbWord], decodeRxb_rxbWord s b⟩

theorem decode_txbWord (s : State) : ∃ i, decode (.txb s.txbWord) = .ok i ∧ decodeTxb s.txbWord = some i :=
  ⟨_, by rw [decode, decodeTxb_txbWord], decodeTxb_txbWord s⟩

theorem decode_rxb {w : RxbWord} {i : Instr} (h : decodeRxb w = some i) : decode (.rxb w) = .ok i := by
  simp [decode, h]

theorem decode_txb {w : TxbWord} {i : Instr} (h : decodeTxb w = some i) : decode (.txb w) = .ok i := by
  simp [decode, h]

/-! ### A step -/

theorem step_cons {s : State} {m : Move} {rest : List Move} (h : s.agenda = m :: rest) :
    step s = takeMove m { s with agenda := rest } := by
  simp [step, State.nextMove, h]

theorem step_nil {s : State} (h : s.agenda = []) :
    step s = takeMove (Config.freeMove s.free) { s with free := s.free + 1 } := by
  simp [step, State.nextMove, h]

theorem runSelected_some {w : Selector} {i : Instr} (s : State) (h : decode w = .ok i) :
    runSelected (some w) s = exec i s.release := by
  simp [runSelected, h]

end Sys2Proof.Machine
end

