-- ==== Sys2Proof/Laws/Words.lean ====
section
/-! SUPPORT. For each RXB and TXB row, the states and the byte whose word is the row's (30_encoding.md R69 to R74). -/

namespace Sys2Proof.Machine

theorem condC_iff (s : State) (b : Byte) : s.condC b = true ↔ b = crcFinal s.cfg.algo s.rx_crc := by
  simp [State.condC]

theorem condR_iff (s : State) : s.condR = true ↔ s.rx_addr.toNat < s.cfg.n := by simp [State.condR]

theorem condE_iff (s : State) : s.condE = true ↔ ∃ k, s.r_ans = .fault k := by
  cases h : s.r_ans <;> simp [State.condE, h]

theorem rxbWord_inDrop (s : State) (b : Byte) : decodeRxb (s.rxbWord b) = some .inDrop ↔ s.rx_st = RxSt.AWAIT_START ∧ b ≠ 0xAA := by
  have h : decodeRxb (s.rxbWord b) = some .inDrop ↔ (s.rx_st = 0 ∧ condM b = false) := by
    rw [decodeRxb_rxbWord]
    generalize s.rx_st = st
    generalize condM b = m
    generalize condZ b = z
    generalize s.condRxL = l
    generalize s.condC b = c
    generalize s.condR = r
    revert st m z l c r; decide
  rw [h]
  simp [condM]

theorem rxbWord_inSof (s : State) (b : Byte) : decodeRxb (s.rxbWord b) = some .inSof ↔ s.rx_st = RxSt.AWAIT_START ∧ b = 0xAA := by
  have h : decodeRxb (s.rxbWord b) = some .inSof ↔ (s.rx_st = 0 ∧ condM b = true) := by
    rw [decodeRxb_rxbWord]
    generalize s.rx_st = st
    generalize condM b = m
    generalize condZ b = z
    generalize s.condRxL = l
    generalize s.condC b = c
    generalize s.condR = r
    revert st m z l c r; decide
  rw [h]
  simp [condM]

theorem rxbWord_inAddr (s : State) (b : Byte) : decodeRxb (s.rxbWord b) = some .inAddr ↔ s.rx_st = RxSt.READ_ADDRESS := by
  have h : decodeRxb (s.rxbWord b) = some .inAddr ↔ (s.rx_st = 1) := by
    rw [decodeRxb_rxbWord]
    generalize s.rx_st = st
    generalize condM b = m
    generalize condZ b = z
    generalize s.condRxL = l
    generalize s.condC b = c
    generalize s.condR = r
    revert st m z l c r; decide
  rw [h]

theorem rxbWord_inLen0 (s : State) (b : Byte) : decodeRxb (s.rxbWord b) = some .inLen0 ↔ s.rx_st = RxSt.READ_LENGTH ∧ b = 0x00 := by
  have h : decodeRxb (s.rxbWord b) = some .inLen0 ↔ (s.rx_st = 2 ∧ condZ b = true) := by
    rw [decodeRxb_rxbWord]
    generalize s.rx_st = st
    generalize condM b = m
    generalize condZ b = z
    generalize s.condRxL = l
    generalize s.condC b = c
    generalize s.condR = r
    revert st m z l c r; decide
  rw [h]
  simp [condZ]

theorem rxbWord_inLen (s : State) (b : Byte) : decodeRxb (s.rxbWord b) = some .inLen ↔ s.rx_st = RxSt.READ_LENGTH ∧ b ≠ 0x00 := by
  have h : decodeRxb (s.rxbWord b) = some .inLen ↔ (s.rx_st = 2 ∧ condZ b = false) := by
    rw [decodeRxb_rxbWord]
    generalize s.rx_st = st
    generalize condM b = m
    generalize condZ b = z
    generalize s.condRxL = l
    generalize s.condC b = c
    generalize s.condR = r
    revert st m z l c r; decide
  rw [h]
  simp [condZ]

theorem rxbWord_inPay (s : State) (b : Byte) : decodeRxb (s.rxbWord b) = some .inPay ↔ s.rx_st = RxSt.READ_PAYLOAD ∧ s.rx_rem ≠ 1 := by
  have h : decodeRxb (s.rxbWord b) = some .inPay ↔ (s.rx_st = 3 ∧ s.condRxL = false) := by
    rw [decodeRxb_rxbWord]
    generalize s.rx_st = st
    generalize condM b = m
    generalize condZ b = z
    generalize s.condRxL = l
    generalize s.condC b = c
    generalize s.condR = r
    revert st m z l c r; decide
  rw [h]
  simp [State.condRxL]

theorem rxbWord_inPaylast (s : State) (b : Byte) : decodeRxb (s.rxbWord b) = some .inPaylast ↔ s.rx_st = RxSt.READ_PAYLOAD ∧ s.rx_rem = 1 := by
  have h : decodeRxb (s.rxbWord b) = some .inPaylast ↔ (s.rx_st = 3 ∧ s.condRxL = true) := by
    rw [decodeRxb_rxbWord]
    generalize s.rx_st = st
    generalize condM b = m
    generalize condZ b = z
    generalize s.condRxL = l
    generalize s.condC b = c
    generalize s.condR = r
    revert st m z l c r; decide
  rw [h]
  simp [State.condRxL]

theorem rxbWord_inCrcbad (s : State) (b : Byte) : decodeRxb (s.rxbWord b) = some .inCrcbad ↔ s.rx_st = RxSt.READ_CHECKSUM ∧ b ≠ crcFinal s.cfg.algo s.rx_crc := by
  have h : decodeRxb (s.rxbWord b) = some .inCrcbad ↔ (s.rx_st = 4 ∧ s.condC b = false) := by
    rw [decodeRxb_rxbWord]
    generalize s.rx_st = st
    generalize condM b = m
    generalize condZ b = z
    generalize s.condRxL = l
    generalize s.condC b = c
    generalize s.condR = r
    revert st m z l c r; decide
  rw [h]
  simp [State.condC]

theorem rxbWord_inDeliver (s : State) (b : Byte) : decodeRxb (s.rxbWord b) = some .inDeliver ↔ s.rx_st = RxSt.READ_CHECKSUM ∧ b = crcFinal s.cfg.algo s.rx_crc ∧ s.rx_addr.toNat < s.cfg.n := by
  have h : decodeRxb (s.rxbWord b) = some .inDeliver ↔ (s.rx_st = 4 ∧ s.condC b = true ∧ s.condR = true) := by
    rw [decodeRxb_rxbWord]
    generalize s.rx_st = st
    generalize condM b = m
    generalize condZ b = z
    generalize s.condRxL = l
    generalize s.condC b = c
    generalize s.condR = r
    revert st m z l c r; decide
  rw [h]
  simp [State.condC, State.condR]

theorem rxbWord_inUnroutable (s : State) (b : Byte) : decodeRxb (s.rxbWord b) = some .inUnroutable ↔ s.rx_st = RxSt.READ_CHECKSUM ∧ b = crcFinal s.cfg.algo s.rx_crc ∧ s.cfg.n ≤ s.rx_addr.toNat := by
  have h : decodeRxb (s.rxbWord b) = some .inUnroutable ↔ (s.rx_st = 4 ∧ s.condC b = true ∧ s.condR = false) := by
    rw [decodeRxb_rxbWord]
    generalize s.rx_st = st
    generalize condM b = m
    generalize condZ b = z
    generalize s.condRxL = l
    generalize s.condC b = c
    generalize s.condR = r
    revert st m z l c r; decide
  rw [h]
  simp [State.condC, State.condR]

theorem rxbWord_rxReservedSt5 (s : State) (b : Byte) : decodeRxb (s.rxbWord b) = some .rxReservedSt5 ↔ s.rx_st = 5 := by
  have h : decodeRxb (s.rxbWord b) = some .rxReservedSt5 ↔ (s.rx_st = 5) := by
    rw [decodeRxb_rxbWord]
    generalize s.rx_st = st
    generalize condM b = m
    generalize condZ b = z
    generalize s.condRxL = l
    generalize s.condC b = c
    generalize s.condR = r
    revert st m z l c r; decide
  rw [h]

theorem rxbWord_rxReservedSt67 (s : State) (b : Byte) : decodeRxb (s.rxbWord b) = some .rxReservedSt67 ↔ 6 ≤ s.rx_st.toNat := by
  have h : decodeRxb (s.rxbWord b) = some .rxReservedSt67 ↔ (6 ≤ s.rx_st.toNat) := by
    rw [decodeRxb_rxbWord]
    generalize s.rx_st = st
    generalize condM b = m
    generalize condZ b = z
    generalize s.condRxL = l
    generalize s.condC b = c
    generalize s.condR = r
    revert st m z l c r; decide
  rw [h]

theorem txbWord_outFetch (s : State) : decodeTxb s.txbWord = some .outFetch ↔ s.tx_st = TxSt.TX_IDLE ∧ s.r_ans = .ok := by
  have h : decodeTxb s.txbWord = some .outFetch ↔ (s.tx_st = 0 ∧ s.condE = false) := by
    rw [decodeTxb_txbWord]
    generalize s.tx_st = st
    generalize s.condTxL = l
    generalize s.condE = e
    revert st l e; decide
  rw [h]
  cases h : s.r_ans <;> simp [State.condE, h]

theorem txbWord_outSfault (s : State) : decodeTxb s.txbWord = some .outSfault ↔ s.tx_st = TxSt.TX_IDLE ∧ ∃ k, s.r_ans = .fault k := by
  have h : decodeTxb s.txbWord = some .outSfault ↔ (s.tx_st = 0 ∧ s.condE = true) := by
    rw [decodeTxb_txbWord]
    generalize s.tx_st = st
    generalize s.condTxL = l
    generalize s.condE = e
    revert st l e; decide
  rw [h]
  rw [condE_iff]

theorem txbWord_outStart (s : State) : decodeTxb s.txbWord = some .outStart ↔ s.tx_st = TxSt.TX_START := by
  have h : decodeTxb s.txbWord = some .outStart ↔ (s.tx_st = 1) := by
    rw [decodeTxb_txbWord]
    generalize s.tx_st = st
    generalize s.condTxL = l
    generalize s.condE = e
    revert st l e; decide
  rw [h]

theorem txbWord_outAddr (s : State) : decodeTxb s.txbWord = some .outAddr ↔ s.tx_st = TxSt.TX_ADDR := by
  have h : decodeTxb s.txbWord = some .outAddr ↔ (s.tx_st = 2) := by
    rw [decodeTxb_txbWord]
    generalize s.tx_st = st
    generalize s.condTxL = l
    generalize s.condE = e
    revert st l e; decide
  rw [h]

theorem txbWord_outLen (s : State) : decodeTxb s.txbWord = some .outLen ↔ s.tx_st = TxSt.TX_LEN := by
  have h : decodeTxb s.txbWord = some .outLen ↔ (s.tx_st = 3) := by
    rw [decodeTxb_txbWord]
    generalize s.tx_st = st
    generalize s.condTxL = l
    generalize s.condE = e
    revert st l e; decide
  rw [h]

theorem txbWord_outPay (s : State) : decodeTxb s.txbWord = some .outPay ↔ s.tx_st = TxSt.TX_PAYLOAD ∧ s.tx_rem ≠ 1 := by
  have h : decodeTxb s.txbWord = some .outPay ↔ (s.tx_st = 4 ∧ s.condTxL = false) := by
    rw [decodeTxb_txbWord]
    generalize s.tx_st = st
    generalize s.condTxL = l
    generalize s.condE = e
    revert st l e; decide
  rw [h]
  simp [State.condTxL]

theorem txbWord_outPaylast (s : State) : decodeTxb s.txbWord = some .outPaylast ↔ s.tx_st = TxSt.TX_PAYLOAD ∧ s.tx_rem = 1 := by
  have h : decodeTxb s.txbWord = some .outPaylast ↔ (s.tx_st = 4 ∧ s.condTxL = true) := by
    rw [decodeTxb_txbWord]
    generalize s.tx_st = st
    generalize s.condTxL = l
    generalize s.condE = e
    revert st l e; decide
  rw [h]
  simp [State.condTxL]

theorem txbWord_outCrc (s : State) : decodeTxb s.txbWord = some .outCrc ↔ s.tx_st = TxSt.TX_CRC := by
  have h : decodeTxb s.txbWord = some .outCrc ↔ (s.tx_st = 5) := by
    rw [decodeTxb_txbWord]
    generalize s.tx_st = st
    generalize s.condTxL = l
    generalize s.condE = e
    revert st l e; decide
  rw [h]

theorem txbWord_txReserved (s : State) : decodeTxb s.txbWord = some .txReserved ↔ 6 ≤ s.tx_st.toNat := by
  have h : decodeTxb s.txbWord = some .txReserved ↔ (6 ≤ s.tx_st.toNat) := by
    rw [decodeTxb_txbWord]
    generalize s.tx_st = st
    generalize s.condTxL = l
    generalize s.condE = e
    revert st l e; decide
  rw [h]

end Sys2Proof.Machine
end

