-- ==== Sys2Proof/Laws/Exec.lean ====
section
/-! SUPPORT. One inversion lemma for each instruction: where `exec` answers a next state, what state it was in,
and which state the next one is. -/

namespace Sys2Proof.Machine

/-- The shared part of the RXB inversions. -/
theorem rxbStep_next {i : Instr} {s t : State} {f : Byte → State → Result} (h : rxbStep i s f = .next t) :
    ∃ b rest, s.link_in = b :: rest ∧ s.rxbEnabled = true ∧ decodeRxb (s.rxbWord b) = some i ∧
      f b { s with link_in := rest } = .next t := by
  rcases rxbStep_cases i s f with h' | ⟨b, rest, h1, h2, h3, h4⟩
  · rw [h'] at h; cases h
  · exact ⟨b, rest, h1, h2, h3, h4 ▸ h⟩

/-- The shared part of the fetch inversions. -/
theorem fetchStep_next {i : Instr} {s t : State} {f : Nat → Result} (h : fetchStep i s f = .next t) :
    ∃ a, s.fetchEndpoint = some a ∧ s.fetchEnabled = true ∧ decodeTxb s.txbWord = some i ∧ f a = .next t := by
  rcases fetchStep_cases i s f with h' | ⟨a, h1, h2, h3, h4⟩
  · rw [h'] at h; cases h
  · exact ⟨a, h1, h2, h3, h4 ▸ h⟩

/-- The shared part of the TX byte step inversions. -/
theorem txbStep_next {i : Instr} {s t : State} {r : Result} (h : txbStep i s r = .next t) :
    s.txByteEnabled = true ∧ decodeTxb s.txbWord = some i ∧ r = .next t := by
  rcases txbStep_cases i s r with h' | ⟨h1, h2, h3⟩
  · rw [h'] at h; cases h
  · exact ⟨h1, h2, h3 ▸ h⟩

theorem next_inj {s t : State} (h : (.next s : Result) = .next t) : t = s := by cases h; rfl

theorem exec_inDrop_next {s t : State} (h : exec .inDrop s = .next t) :
    ∃ b rest, s.link_in = b :: rest ∧ s.rxbEnabled = true ∧ s.rx_st = RxSt.AWAIT_START ∧ b ≠ 0xAA ∧
      t = { s with link_in := rest, rx_poll := false } := by
  obtain ⟨b, rest, h1, h2, h3, h4⟩ := rxbStep_next (i := .inDrop) (show execInDrop s = .next t from h)
  exact ⟨b, rest, h1, h2, ((rxbWord_inDrop s b).1 h3).1, ((rxbWord_inDrop s b).1 h3).2, next_inj h4⟩

theorem exec_inSof_next {s t : State} (h : exec .inSof s = .next t) :
    ∃ b rest, s.link_in = b :: rest ∧ s.rxbEnabled = true ∧ s.rx_st = RxSt.AWAIT_START ∧ b = 0xAA ∧
      t = { s with link_in := rest, rx_crc := s.cfg.algo.init, rx_st := RxSt.READ_ADDRESS, rx_poll := false } := by
  obtain ⟨b, rest, h1, h2, h3, h4⟩ := rxbStep_next (i := .inSof) (show execInSof s = .next t from h)
  exact ⟨b, rest, h1, h2, ((rxbWord_inSof s b).1 h3).1, ((rxbWord_inSof s b).1 h3).2, next_inj h4⟩

theorem exec_inAddr_next {s t : State} (h : exec .inAddr s = .next t) :
    ∃ b rest, s.link_in = b :: rest ∧ s.rxbEnabled = true ∧ s.rx_st = RxSt.READ_ADDRESS ∧
      t = { s with
        link_in := rest, rx_addr := b, rx_crc := crcUpdate s.cfg.algo s.rx_crc b, rx_st := RxSt.READ_LENGTH,
        rx_poll := false } := by
  obtain ⟨b, rest, h1, h2, h3, h4⟩ := rxbStep_next (i := .inAddr) (show execInAddr s = .next t from h)
  exact ⟨b, rest, h1, h2, ((rxbWord_inAddr s b).1 h3), next_inj h4⟩

theorem exec_inLen0_next {s t : State} (h : exec .inLen0 s = .next t) :
    ∃ b rest, s.link_in = b :: rest ∧ s.rxbEnabled = true ∧ s.rx_st = RxSt.READ_LENGTH ∧ b = 0x00 ∧
      t = (({ s with link_in := rest } : State).raise (.malformedZeroLength s.rx_addr)).toAwaitStart := by
  obtain ⟨b, rest, h1, h2, h3, h4⟩ := rxbStep_next (i := .inLen0) (show execInLen0 s = .next t from h)
  exact ⟨b, rest, h1, h2, ((rxbWord_inLen0 s b).1 h3).1, ((rxbWord_inLen0 s b).1 h3).2, next_inj h4⟩

theorem exec_inLen_next {s t : State} (h : exec .inLen s = .next t) :
    ∃ b rest, s.link_in = b :: rest ∧ s.rxbEnabled = true ∧ s.rx_st = RxSt.READ_LENGTH ∧ b ≠ 0x00 ∧
      t = { s with
        link_in := rest, rx_len := b, rx_rem := b, rx_crc := crcUpdate s.cfg.algo s.rx_crc b,
        rx_st := RxSt.READ_PAYLOAD, rx_poll := false } := by
  obtain ⟨b, rest, h1, h2, h3, h4⟩ := rxbStep_next (i := .inLen) (show execInLen s = .next t from h)
  exact ⟨b, rest, h1, h2, ((rxbWord_inLen s b).1 h3).1, ((rxbWord_inLen s b).1 h3).2, next_inj h4⟩

theorem exec_inPay_next {s t : State} (h : exec .inPay s = .next t) :
    ∃ b rest, s.link_in = b :: rest ∧ s.rxbEnabled = true ∧ s.rx_st = RxSt.READ_PAYLOAD ∧ s.rx_rem ≠ 1 ∧
      1 ≤ s.rx_rem.toNat ∧ s.rx_rem.toNat ≤ s.rx_len.toNat ∧
      t = { s with
        link_in := rest, rx_buf := s.rx_buf.write (s.rx_len.toNat - s.rx_rem.toNat) b,
        rx_crc := crcUpdate s.cfg.algo s.rx_crc b, rx_rem := s.rx_rem - 1, rx_poll := false } := by
  obtain ⟨b, rest, h1, h2, h3, h4⟩ := rxbStep_next (i := .inPay) (show execInPay s = .next t from h)
  have hc := (rxbWord_inPay s b).1 h3
  refine ⟨b, rest, h1, h2, hc.1, hc.2, ?_⟩
  cases hj : payloadIndex s.rx_len s.rx_rem with
  | none => simp only [hj] at h4; cases h4
  | some j =>
    simp only [hj] at h4
    obtain ⟨hr, hl, rfl⟩ := payloadIndex_some hj
    exact ⟨hr, hl, next_inj h4⟩

theorem exec_inPaylast_next {s t : State} (h : exec .inPaylast s = .next t) :
    ∃ b rest, s.link_in = b :: rest ∧ s.rxbEnabled = true ∧ s.rx_st = RxSt.READ_PAYLOAD ∧ s.rx_rem = 1 ∧
      1 ≤ s.rx_rem.toNat ∧ s.rx_rem.toNat ≤ s.rx_len.toNat ∧
      t = { s with
        link_in := rest, rx_buf := s.rx_buf.write (s.rx_len.toNat - s.rx_rem.toNat) b,
        rx_crc := crcUpdate s.cfg.algo s.rx_crc b, rx_rem := 0, rx_st := RxSt.READ_CHECKSUM, rx_poll := false } := by
  obtain ⟨b, rest, h1, h2, h3, h4⟩ := rxbStep_next (i := .inPaylast) (show execInPaylast s = .next t from h)
  have hc := (rxbWord_inPaylast s b).1 h3
  refine ⟨b, rest, h1, h2, hc.1, hc.2, ?_⟩
  cases hj : payloadIndex s.rx_len s.rx_rem with
  | none => simp only [hj] at h4; cases h4
  | some j =>
    simp only [hj] at h4
    obtain ⟨hr, hl, rfl⟩ := payloadIndex_some hj
    exact ⟨hr, hl, next_inj h4⟩

theorem exec_inCrcbad_next {s t : State} (h : exec .inCrcbad s = .next t) :
    ∃ b rest, s.link_in = b :: rest ∧ s.rxbEnabled = true ∧ s.rx_st = RxSt.READ_CHECKSUM ∧ b ≠ crcFinal s.cfg.algo s.rx_crc ∧
      t = (({ s with link_in := rest } : State).raise
        (.malformedChecksum s.rx_addr s.rx_len (crcFinal s.cfg.algo s.rx_crc) b)).toAwaitStart := by
  obtain ⟨b, rest, h1, h2, h3, h4⟩ := rxbStep_next (i := .inCrcbad) (show execInCrcbad s = .next t from h)
  exact ⟨b, rest, h1, h2, ((rxbWord_inCrcbad s b).1 h3).1, ((rxbWord_inCrcbad s b).1 h3).2, next_inj h4⟩

theorem exec_inDeliver_next {s t : State} (h : exec .inDeliver s = .next t) :
    ∃ b rest, s.link_in = b :: rest ∧ s.rxbEnabled = true ∧ s.rx_st = RxSt.READ_CHECKSUM ∧ b = crcFinal s.cfg.algo s.rx_crc ∧ s.rx_addr.toNat < s.cfg.n ∧
      t = (({ s with link_in := rest } : State).routeInbound s.rx_addr s.rxPayload).toAwaitStart := by
  obtain ⟨b, rest, h1, h2, h3, h4⟩ := rxbStep_next (i := .inDeliver) (show execInDeliver s = .next t from h)
  exact ⟨b, rest, h1, h2, ((rxbWord_inDeliver s b).1 h3).1, ((rxbWord_inDeliver s b).1 h3).2.1, ((rxbWord_inDeliver s b).1 h3).2.2, next_inj h4⟩

theorem exec_inUnroutable_next {s t : State} (h : exec .inUnroutable s = .next t) :
    ∃ b rest, s.link_in = b :: rest ∧ s.rxbEnabled = true ∧ s.rx_st = RxSt.READ_CHECKSUM ∧ b = crcFinal s.cfg.algo s.rx_crc ∧ s.cfg.n ≤ s.rx_addr.toNat ∧
      t = (({ s with link_in := rest } : State).raise (.unroutableAddress s.rx_addr s.rx_len)).toAwaitStart := by
  obtain ⟨b, rest, h1, h2, h3, h4⟩ := rxbStep_next (i := .inUnroutable) (show execInUnroutable s = .next t from h)
  exact ⟨b, rest, h1, h2, ((rxbWord_inUnroutable s b).1 h3).1, ((rxbWord_inUnroutable s b).1 h3).2.1, ((rxbWord_inUnroutable s b).1 h3).2.2, next_inj h4⟩

theorem exec_outFetch_next {s t : State} (h : exec .outFetch s = .next t) :
    ∃ a, s.fetchEndpoint = some a ∧ s.fetchEnabled = true ∧ s.r_ans = .ok ∧
      t = { s.dropSout a (s.chunkLen a) with
        tx_buf := s.tx_buf.writeFrom 0 (s.chunk a), tx_addr := BitVec.ofNat 8 a,
        tx_len := BitVec.ofNat 8 (s.chunkLen a), tx_rem := BitVec.ofNat 8 (s.chunkLen a),
        tx_crc := s.cfg.algo.init, tx_st := TxSt.TX_START } := by
  obtain ⟨a, h1, h2, h3, h4⟩ := fetchStep_next (i := .outFetch) h
  exact ⟨a, h1, h2, ((txbWord_outFetch s).1 h3).2, next_inj h4⟩

theorem exec_outSfault_next {s t : State} (h : exec .outSfault s = .next t) :
    ∃ a, s.fetchEndpoint = some a ∧ s.fetchEnabled = true ∧ (∃ k, s.r_ans = .fault k) ∧
      t = (s.dropSout a (s.lostBytes a)).raise (.logicalStreamFault .tx (BitVec.ofNat 8 a)) := by
  obtain ⟨a, h1, h2, h3, h4⟩ := fetchStep_next (i := .outSfault) h
  exact ⟨a, h1, h2, ((txbWord_outSfault s).1 h3).2, next_inj h4⟩

theorem exec_outStart_next {s t : State} (h : exec .outStart s = .next t) :
    s.tx_mode = Mode.RUNNING ∧ s.tx_st = TxSt.TX_START ∧
      t = { s.linkSend Config.START with tx_st := TxSt.TX_ADDR } := by
  obtain ⟨h1, h2, h3⟩ := txbStep_next (i := .outStart) h
  exact ⟨((txByteEnabled_iff s).1 h1).1, (txbWord_outStart s).1 h2, next_inj h3⟩

theorem exec_outAddr_next {s t : State} (h : exec .outAddr s = .next t) :
    s.tx_mode = Mode.RUNNING ∧ s.tx_st = TxSt.TX_ADDR ∧
      t = { s.linkSend s.tx_addr with
        tx_crc := crcUpdate s.cfg.algo s.tx_crc s.tx_addr, tx_st := TxSt.TX_LEN } := by
  obtain ⟨h1, h2, h3⟩ := txbStep_next (i := .outAddr) h
  exact ⟨((txByteEnabled_iff s).1 h1).1, (txbWord_outAddr s).1 h2, next_inj h3⟩

theorem exec_outLen_next {s t : State} (h : exec .outLen s = .next t) :
    s.tx_mode = Mode.RUNNING ∧ s.tx_st = TxSt.TX_LEN ∧
      t = { s.linkSend s.tx_len with
        tx_crc := crcUpdate s.cfg.algo s.tx_crc s.tx_len, tx_st := TxSt.TX_PAYLOAD } := by
  obtain ⟨h1, h2, h3⟩ := txbStep_next (i := .outLen) h
  exact ⟨((txByteEnabled_iff s).1 h1).1, (txbWord_outLen s).1 h2, next_inj h3⟩

theorem exec_outCrc_next {s t : State} (h : exec .outCrc s = .next t) :
    s.tx_mode = Mode.RUNNING ∧ s.tx_st = TxSt.TX_CRC ∧
      t = { s.linkSend (crcFinal s.cfg.algo s.tx_crc) with tx_st := TxSt.TX_IDLE } := by
  obtain ⟨h1, h2, h3⟩ := txbStep_next (i := .outCrc) h
  exact ⟨((txByteEnabled_iff s).1 h1).1, (txbWord_outCrc s).1 h2, next_inj h3⟩

theorem exec_outPay_next {s t : State} (h : exec .outPay s = .next t) :
    s.tx_mode = Mode.RUNNING ∧ s.tx_st = TxSt.TX_PAYLOAD ∧ s.tx_rem ≠ 1 ∧
      1 ≤ s.tx_rem.toNat ∧ s.tx_rem.toNat ≤ s.tx_len.toNat ∧
      t = { s.linkSend (s.tx_buf.read (s.tx_len.toNat - s.tx_rem.toNat)) with
        tx_crc := crcUpdate s.cfg.algo s.tx_crc (s.tx_buf.read (s.tx_len.toNat - s.tx_rem.toNat)),
        tx_rem := s.tx_rem - 1 } := by
  obtain ⟨h1, h2, h3⟩ := txbStep_next (i := .outPay) h
  have hc := (txbWord_outPay s).1 h2
  refine ⟨((txByteEnabled_iff s).1 h1).1, hc.1, hc.2, ?_⟩
  cases hj : payloadIndex s.tx_len s.tx_rem with
  | none => simp only [hj] at h3; cases h3
  | some j =>
    simp only [hj] at h3
    obtain ⟨hr, hl, rfl⟩ := payloadIndex_some hj
    exact ⟨hr, hl, next_inj h3⟩

theorem exec_outPaylast_next {s t : State} (h : exec .outPaylast s = .next t) :
    s.tx_mode = Mode.RUNNING ∧ s.tx_st = TxSt.TX_PAYLOAD ∧ s.tx_rem = 1 ∧
      1 ≤ s.tx_rem.toNat ∧ s.tx_rem.toNat ≤ s.tx_len.toNat ∧
      t = { s.linkSend (s.tx_buf.read (s.tx_len.toNat - s.tx_rem.toNat)) with
        tx_crc := crcUpdate s.cfg.algo s.tx_crc (s.tx_buf.read (s.tx_len.toNat - s.tx_rem.toNat)),
        tx_rem := 0, tx_st := TxSt.TX_CRC } := by
  obtain ⟨h1, h2, h3⟩ := txbStep_next (i := .outPaylast) h
  have hc := (txbWord_outPaylast s).1 h2
  refine ⟨((txByteEnabled_iff s).1 h1).1, hc.1, hc.2, ?_⟩
  cases hj : payloadIndex s.tx_len s.tx_rem with
  | none => simp only [hj] at h3; cases h3
  | some j =>
    simp only [hj] at h3
    obtain ⟨hr, hl, rfl⟩ := payloadIndex_some hj
    exact ⟨hr, hl, next_inj h3⟩

theorem exec_reset_next {s t : State} (h : exec .reset s = .next t) : t = s.applyReset := next_inj h

theorem exec_setStop_next {s t : State} (h : exec .setStop s = .next t) : t = { s with stop := true } := next_inj h

theorem exec_rxIncomplete_next {s t : State} (h : exec .rxIncomplete s = .next t) :
    s.rxIncompleteEnabled = true ∧ t = { s with rx_poll := true } := ctlStep_next h

theorem exec_rxHalt_next {s t : State} (h : exec .rxHalt s = .next t) :
    s.rxHaltEnabled = true ∧ t = { s with rx_mode := Mode.STOPPED } := ctlStep_next h

theorem exec_rxLinkFault_next {s t : State} (h : exec .rxLinkFault s = .next t) :
    s.rx_mode = Mode.RUNNING ∧ t = s.linkFault .rx := by
  have h := ctlStep_next h
  exact ⟨beq_iff_eq.1 h.1, h.2⟩

theorem exec_txHalt_next {s t : State} (h : exec .txHalt s = .next t) :
    s.txHaltEnabled = true ∧ t = { s with tx_mode := Mode.STOPPED } := ctlStep_next h

theorem exec_txLinkFault_next {s t : State} (h : exec .txLinkFault s = .next t) :
    s.tx_mode = Mode.RUNNING ∧ t = s.linkFault .tx := by
  have h := ctlStep_next h
  exact ⟨beq_iff_eq.1 h.1, h.2⟩

/-- The reserved rows answer no next state. -/
theorem exec_reserved_not_next {s t : State} :
    exec .rxReservedSt5 s ≠ .next t ∧ exec .rxReservedSt67 s ≠ .next t ∧ exec .txReserved s ≠ .next t :=
  ⟨fun h => (by cases h), fun h => (by cases h), fun h => (by cases h)⟩

end Sys2Proof.Machine
end

