-- ==== Sys2Proof/Laws/Memory.lean ====
section
/-! SUPPORT. The laws of the payload buffers and the stream queues: read after write, canonical form, and the
lists of bytes they hold. -/

namespace Sys2Proof.Machine

section Table

variable {α : Type} {d : α} {t : List (Nat × α)}

/-- An index below every listed one reads as unlisted. -/
theorem tableGet_of_lt {a : Nat} (h : ∀ c ∈ t, a < c.1) : tableGet d t a = d := by
  cases t with
  | nil => rfl
  | cons c t =>
    have := h c (by simp)
    simp [tableGet, Nat.ne_of_lt this, this]

variable [DecidableEq α]

theorem tableSet_keys {a : Nat} {v : α} {c : Nat × α} (h : c ∈ tableSet d t a v) : c = (a, v) ∨ c ∈ t := by
  induction t with
  | nil => by_cases hv : v = d <;> simp_all [tableSet]
  | cons e t ih =>
    obtain ⟨k, w⟩ := e
    simp only [tableSet] at h
    split at h
    · split at h
      · exact .inr h
      · simpa using h
    · split at h
      · split at h
        · exact .inr (by simp [h])
        · rcases List.mem_cons.1 h with h | h
          · exact .inl h
          · exact .inr (by simp [h])
      · rcases List.mem_cons.1 h with h | h
        · exact .inr (by simp [h])
        · rcases ih h with h | h
          · exact .inl h
          · exact .inr (by simp [h])

/-- Every write keeps the canonical form. -/
theorem tableSet_wf {a : Nat} {v : α} (h : tableWf d t) : tableWf d (tableSet d t a v) := by
  induction t with
  | nil => by_cases hv : v = d <;> simp [tableSet, hv, tableWf]
  | cons e t ih =>
    obtain ⟨k, w⟩ := e
    obtain ⟨hp, hd⟩ := h
    rw [List.pairwise_cons] at hp
    have ht : tableWf d t := ⟨hp.2, fun c hc => hd c (by simp [hc])⟩
    simp only [tableSet]
    split
    · next hlt =>
      split
      · exact ⟨List.pairwise_cons.2 hp, hd⟩
      · next hv =>
        refine ⟨List.pairwise_cons.2 ⟨?_, List.pairwise_cons.2 hp⟩, ?_⟩
        · intro c hc
          rcases List.mem_cons.1 hc with rfl | hc
          · exact hlt
          · exact Nat.lt_trans hlt (hp.1 c hc)
        · intro c hc
          rcases List.mem_cons.1 hc with rfl | hc
          · exact hv
          · exact hd c hc
    · split
      · next heq =>
        subst heq
        split
        · exact ht
        · next hv =>
          refine ⟨List.pairwise_cons.2 ⟨fun c hc => hp.1 c hc, hp.2⟩, ?_⟩
          intro c hc
          rcases List.mem_cons.1 hc with rfl | hc
          · exact hv
          · exact hd c (by simp [hc])
      · next hle hne =>
        have ih := ih ht
        refine ⟨List.pairwise_cons.2 ⟨?_, ih.1⟩, ?_⟩
        · intro c hc
          rcases tableSet_keys hc with rfl | hc
          · have : k < a := by omega
            exact this
          · exact hp.1 c hc
        · intro c hc
          rcases List.mem_cons.1 hc with rfl | hc
          · exact hd _ (by simp)
          · exact ih.2 c hc

/-- What a read gives after a write. -/
theorem tableGet_set {a b : Nat} {v : α} (h : tableWf d t) :
    tableGet d (tableSet d t a v) b = if b = a then v else tableGet d t b := by
  induction t with
  | nil =>
    by_cases hv : v = d <;> by_cases hb : b = a <;> simp [tableSet, tableGet, hv, hb]
  | cons e t ih =>
    obtain ⟨k, w⟩ := e
    obtain ⟨hp, hd⟩ := h
    rw [List.pairwise_cons] at hp
    have ht : tableWf d t := ⟨hp.2, fun c hc => hd c (by simp [hc])⟩
    have hnext : ∀ x, x ≤ k → tableGet d t x = d := fun x hx =>
      tableGet_of_lt fun c hc => Nat.lt_of_le_of_lt hx (hp.1 c hc)
    have ih := ih ht
    simp only [tableSet]
    split
    · next hlt =>
      split
      · next hv =>
        by_cases hb : b = a
        · subst hb; simp [tableGet, hv, hlt, Nat.ne_of_lt hlt]
        · simp [hb]
      · by_cases hb : b = a
        · simp [tableGet, hb]
        · simp only [tableGet, hb, if_false]
          split
          · next hba =>
            have h1 : b ≠ k := by omega
            have h2 : b < k := by omega
            simp [h1, h2]
          · rfl
    · split
      · next hle heq =>
        subst heq
        split
        · next hv =>
          by_cases hb : b = a
          · subst hb; simp [hv, hnext _ (Nat.le_refl _)]
          · simp only [tableGet, hb, if_false]
            split
            · next hlt => exact hnext _ (Nat.le_of_lt hlt)
            · rfl
        · by_cases hb : b = a <;> simp [tableGet, hb]
      · next hle hne =>
        simp only [tableGet]
        by_cases hk : b = k
        · have : b ≠ a := by omega
          simp [hk, Ne.symm hne]
        · simp only [hk, if_false]
          split
          · next hlt =>
            have : b ≠ a := by omega
            simp [this]
          · exact ih

omit [DecidableEq α] in
/-- Two canonical tables that read alike are equal. -/
theorem table_ext {u : List (Nat × α)} (ht : tableWf d t) (hu : tableWf d u)
    (h : ∀ a, tableGet d t a = tableGet d u a) : t = u := by
  induction t generalizing u with
  | nil =>
    cases u with
    | nil => rfl
    | cons e u =>
      have := h e.1
      simp only [tableGet, if_true] at this
      exact absurd this.symm (hu.2 e (by simp))
  | cons e t ih =>
    cases u with
    | nil =>
      have := h e.1
      simp only [tableGet, if_true] at this
      exact absurd this (ht.2 e (by simp))
    | cons f u =>
      obtain ⟨k, w⟩ := e
      obtain ⟨l, x⟩ := f
      have hp := List.pairwise_cons.1 ht.1
      have hq := List.pairwise_cons.1 hu.1
      have hkl : k = l := by
        rcases Nat.lt_trichotomy k l with hlt | heq | hlt
        · have := h k
          simp only [tableGet, if_true, Nat.ne_of_lt hlt, hlt, if_false] at this
          exact absurd this (ht.2 (k, w) (by simp))
        · exact heq
        · have := h l
          simp only [tableGet, if_true, Nat.ne_of_lt hlt, hlt, if_false] at this
          exact absurd this.symm (hu.2 (l, x) (by simp))
      subst hkl
      have hw : w = x := by simpa [tableGet] using h k
      subst hw
      have : t = u := ih ⟨hp.2, fun c hc => ht.2 c (by simp [hc])⟩ ⟨hq.2, fun c hc => hu.2 c (by simp [hc])⟩
        fun a => by
          rcases Nat.lt_or_ge k a with hlt | hge
          · have := h a
            have h1 : a ≠ k := by omega
            have h2 : ¬ a < k := by omega
            simpa [tableGet, h1, h2] using this
          · rw [tableGet_of_lt fun c hc => Nat.lt_of_le_of_lt hge (hp.1 c hc),
              tableGet_of_lt fun c hc => Nat.lt_of_le_of_lt hge (hq.1 c hc)]
      rw [this]

end Table

/-! ### Buffers -/

theorem Memory.write_wf {m : Memory} {i : Nat} {v : Byte} (h : m.wf) : (m.write i v).wf := tableSet_wf h

theorem Memory.read_write {m : Memory} {i j : Nat} {v : Byte} (h : m.wf) :
    (m.write i v).read j = if j = i then v else m.read j := tableGet_set h

theorem Memory.read_write_same {m : Memory} {i : Nat} {v : Byte} (h : m.wf) : (m.write i v).read i = v := by
  simp [Memory.read_write h]

theorem Memory.read_write_other {m : Memory} {i j : Nat} {v : Byte} (h : m.wf) (hj : j ≠ i) :
    (m.write i v).read j = m.read j := by
  simp [Memory.read_write h, hj]

theorem Memory.writeFrom_wf {q : List Byte} {m : Memory} {i : Nat} (h : m.wf) : (m.writeFrom i q).wf := by
  induction q generalizing m i with
  | nil => exact h
  | cons v q ih => exact ih (Memory.write_wf h)

/-- Every element after a block write. -/
theorem Memory.read_writeFrom {q : List Byte} {m : Memory} {i j : Nat} (h : m.wf) :
    (m.writeFrom i q).read j = if i ≤ j then (q[j - i]?).getD (m.read j) else m.read j := by
  induction q generalizing m i with
  | nil => simp [Memory.writeFrom]
  | cons v q ih =>
    rw [Memory.writeFrom, ih (Memory.write_wf h), Memory.read_write h]
    rcases Nat.lt_trichotomy j i with hlt | heq | hgt
    · simp [show ¬ i + 1 ≤ j by omega, show ¬ i ≤ j by omega, Nat.ne_of_lt hlt]
    · subst heq; simp [show ¬ j + 1 ≤ j by omega]
    · rw [if_pos (by omega : i + 1 ≤ j), if_pos (by omega : i ≤ j), if_neg (by omega : ¬ j = i),
        show j - i = (j - (i + 1)) + 1 by omega, List.getElem?_cons_succ]

theorem Memory.unspecified_wf (f : Nat) : (Memory.unspecified f).wf :=
  Memory.writeFrom_wf ⟨List.Pairwise.nil, by simp⟩

@[simp] theorem Memory.upTo_zero (m : Memory) : m.upTo 0 = [] := rfl

@[simp] theorem Memory.upTo_length (m : Memory) (c : Nat) : (m.upTo c).length = c := by simp [Memory.upTo]

theorem Memory.upTo_succ (m : Memory) (c : Nat) : m.upTo (c + 1) = m.upTo c ++ [m.read c] := by
  simp [Memory.upTo, List.range_succ]

theorem Memory.upTo_congr {m n : Memory} {c : Nat} (h : ∀ i < c, m.read i = n.read i) : m.upTo c = n.upTo c := by
  simp only [Memory.upTo]
  exact List.map_congr_left fun i hi => h i (List.mem_range.1 hi)

/-- Writing element c extends the bytes held in 0..c by the byte written. -/
theorem Memory.upTo_write {m : Memory} {c : Nat} {v : Byte} (h : m.wf) :
    (m.write c v).upTo (c + 1) = m.upTo c ++ [v] := by
  rw [Memory.upTo_succ, Memory.read_write_same h]
  congr 1
  exact Memory.upTo_congr fun i hi => Memory.read_write_other h (Nat.ne_of_lt hi)

/-- A chunk written from element 0 reads back whole. -/
theorem Memory.upTo_writeFrom {m : Memory} {q : List Byte} (h : m.wf) : (m.writeFrom 0 q).upTo q.length = q := by
  apply List.ext_getElem (by simp)
  intro i h1 h2
  simp [Memory.upTo, Memory.read_writeFrom h, List.getElem?_eq_getElem h2]

theorem Memory.upTo_getElem {m : Memory} {c i : Nat} (h : i < (m.upTo c).length) : (m.upTo c)[i] = m.read i := by
  simp [Memory.upTo]

/-! ### Streams -/

theorem Streams.set_wf {t : Streams} {a : Nat} {q : List Byte} (h : t.wf) : (t.set a q).wf := tableSet_wf h

theorem Streams.get_set {t : Streams} {a b : Nat} {q : List Byte} (h : t.wf) :
    (t.set a q).get b = if b = a then q else t.get b := tableGet_set h

theorem Streams.get_set_same {t : Streams} {a : Nat} {q : List Byte} (h : t.wf) : (t.set a q).get a = q := by
  simp [Streams.get_set h]

theorem Streams.get_set_other {t : Streams} {a b : Nat} {q : List Byte} (h : t.wf) (hb : b ≠ a) :
    (t.set a q).get b = t.get b := by
  simp [Streams.get_set h, hb]

/-- Setting a queue to what it holds changes nothing. -/
theorem Streams.set_get {t : Streams} {a : Nat} (h : t.wf) : t.set a (t.get a) = t :=
  table_ext (Streams.set_wf h) h fun b => by
    have := Streams.get_set (a := a) (b := b) (q := t.get a) h
    simp only [Streams.get] at this
    rw [show tableGet [] (t.set a (t.get a)) b = _ from this]
    split
    · next hb => subst hb; rfl
    · rfl

/-- Two canonical families of queues that read alike are equal. -/
theorem Streams.ext {t u : Streams} (ht : t.wf) (hu : u.wf) (h : ∀ a, t.get a = u.get a) : t = u :=
  table_ext ht hu h

/-- Two canonical buffers that read alike are equal. -/
theorem Memory.ext {m n : Memory} (hm : m.wf) (hn : n.wf) (h : ∀ i, m.read i = n.read i) : m = n :=
  table_ext hm hn h

end Sys2Proof.Machine
end

