-- ==== Sys2Proof/Laws/Run.lean ====
section
/-! SUPPORT. Runs of several steps: one step at a time, and one run after another. -/

namespace Sys2Proof.Machine

@[simp] theorem run_zero (s : State) : run 0 s = .next s := rfl

theorem run_succ {s t : State} (k : Nat) (h : step s = .next t) : run (k + 1) s = run k t := by
  simp only [run, h]

theorem run_add {s t : State} {k : Nat} (l : Nat) (h : run k s = .next t) : run (k + l) s = run l t := by
  induction k generalizing s with
  | zero =>
    cases h
    rw [Nat.zero_add]
  | succ k ih =>
    rw [Nat.add_right_comm]
    cases hs : step s with
    | next u =>
      rw [run_succ _ hs] at h ⊢
      exact ih h
    | fault f => simp [run, hs] at h
    | refused r => simp [run, hs] at h

/-- The run of the host's interface is this run. -/
theorem core_run_eq (k : Nat) (s : State) : Sys2Proof.core.run k s = run k s := by
  induction k generalizing s with
  | zero => rfl
  | succ k ih =>
    have e := Host.Core.run.eq_2 Sys2Proof.core s k
    cases hs : step s with
    | next u =>
      rw [show Sys2Proof.core.step s = .next u from hs] at e
      rw [run_succ _ hs]
      exact e.trans (ih u)
    | fault f =>
      rw [show Sys2Proof.core.step s = .fault f from hs] at e
      exact e.trans (by simp only [run, hs]; rfl)
    | refused r =>
      rw [show Sys2Proof.core.step s = .refused r from hs] at e
      exact e.trans (by simp only [run, hs]; rfl)

/-- A turn of RX runs the instruction that RX selects. -/
theorem step_rx_takes {s : State} {ans : WriteAnswer} {ms : List Move} {i : Instr}
    (ha : s.agenda = .rx ans :: ms) (h : s.rxTakes i) :
    step s = exec i { s with agenda := ms, w_ans := ans, held := false } := by
  obtain ⟨w, h1, h2⟩ := h
  have hm : s.rx_mode ≠ Mode.UNUSED := by
    rcases rxSelect_cases h1 with h | h | ⟨b, rest, -, h, -⟩
    · rw [((rxHaltEnabled_iff s).1 h.2).1]; decide
    · rw [((rxIncompleteEnabled_iff s).1 h.2).1]; decide
    · rw [((rxbEnabled_iff s).1 h).1]; decide
  have hs : ({ s with agenda := ms } : State).rxSelect = some w := h1
  rw [step_cons ha, takeMove, rxTurn, if_neg (by simpa using hm), hs]
  exact runSelected_some _ h2

/-- A turn of TX runs the instruction that TX selects, with the answers of the turn in hand. -/
theorem step_tx_takes {s : State} {p : Nat} {ans : ReadAnswer} {ms : List Move} {i : Instr}
    (ha : s.agenda = .tx p ans :: ms) (h : ({ s with agenda := ms, pick := p, r_ans := ans } : State).txTakes i) :
    step s = exec i { s with agenda := ms, pick := p, r_ans := ans, held := false } := by
  obtain ⟨w, h1, h2⟩ := h
  have hm : s.tx_mode ≠ Mode.UNUSED := by
    rcases txSelect_cases h1 with h | ⟨-, h | h⟩
    · rw [((txHaltEnabled_iff _).1 h.2).1]; decide
    · rw [((fetchEnabled_iff _).1 h).1]; decide
    · rw [((txByteEnabled_iff _).1 h).1]; decide
  rw [step_cons ha, takeMove, txTurn, if_neg (by simpa using hm)]
  simp only [h1]
  exact runSelected_some _ h2

end Sys2Proof.Machine
end

