-- ==== Sys2Proof/Laws/Invariant.lean ====
section
/-! SUPPORT. What the two invariants depend on, what a turn does, and how lists of turns split. -/

namespace Sys2Proof.Machine

/-! ### The invariants depend on their own registers only -/

theorem RxInv.of_eq {s t : State} (h : RxInv s) (h0 : t.cfg = s.cfg) (h1 : t.rx_st = s.rx_st)
    (h2 : t.rx_addr = s.rx_addr) (h3 : t.rx_len = s.rx_len) (h4 : t.rx_rem = s.rx_rem)
    (h5 : t.rx_crc = s.rx_crc) (h6 : t.rx_buf = s.rx_buf) : RxInv t := by
  constructor
  · rw [h1]; exact h.code
  · rw [h0, h1, h5]; exact h.address
  · rw [h0, h1, h5, h2]; exact h.length
  · simp only [State.rxReceived]
    rw [h0, h1, h2, h3, h4, h5, h6]; exact h.payload
  · simp only [State.rxPayload]
    rw [h0, h1, h2, h3, h4, h5, h6]; exact h.checksum

/-- In AWAIT_START the RX invariant asks nothing. -/
theorem RxInv.of_idle {t : State} (h : t.rx_st = RxSt.AWAIT_START) : RxInv t := by
  constructor <;> simp [h]

theorem TxInv.of_eq {s t : State} (h : TxInv s) (h0 : t.cfg = s.cfg) (h1 : t.tx_st = s.tx_st)
    (h2 : t.tx_addr = s.tx_addr) (h3 : t.tx_len = s.tx_len) (h4 : t.tx_rem = s.tx_rem)
    (h5 : t.tx_crc = s.tx_crc) (h6 : t.tx_buf = s.tx_buf) : TxInv t := by
  constructor
  · rw [h1]; exact h.code
  · rw [h0, h1, h2, h3]; exact h.frame
  · rw [h0, h1, h3, h4, h5]; exact h.start
  · rw [h0, h1, h3, h4, h5]; exact h.addr
  · rw [h0, h1, h2, h3, h4, h5]; exact h.len
  · simp only [State.txSent]
    rw [h0, h1, h2, h3, h4, h5, h6]; exact h.payload
  · simp only [State.txSent]
    rw [h0, h1, h2, h3, h4, h5, h6]; exact h.crc

/-- In TX_IDLE the TX invariant asks nothing. -/
theorem TxInv.of_idle {t : State} (h : t.tx_st = TxSt.TX_IDLE) : TxInv t := by
  constructor <;> simp [h]

/-! ### Counts and prefixes of bytes -/

/-- One less of a count that is not 0. -/
theorem toNat_sub_one {r : Byte} (h : 1 ≤ r.toNat) : (r - 1).toNat = r.toNat - 1 := by
  have := r.isLt
  simp only [BitVec.toNat_sub]
  simp
  omega

theorem toNat_ne_one {r : Byte} (h : r ≠ 1) : r.toNat ≠ 1 := fun hh => h (BitVec.eq_of_toNat_eq hh)

theorem Memory.upTo_take (m : Memory) (c k : Nat) : (m.upTo c).take k = m.upTo (min k c) := by
  simp [Memory.upTo, ← List.map_take, List.take_range]

/-! ### A turn -/

theorem TakesByte.enabled {s : State} {b : Byte} {rest : List Byte} (h : TakesByte s b rest) :
    s.rxbEnabled = true :=
  (rxbEnabled_iff s).2 ⟨h.running, by simp [h.byte], h.sampled⟩

theorem takesByte_of_enabled {s : State} {b : Byte} {rest : List Byte} (h1 : s.link_in = b :: rest)
    (h2 : s.rxbEnabled = true) : TakesByte s b rest :=
  have h := (rxbEnabled_iff s).1 h2
  ⟨h.1, h.2.2, h1⟩

/-- Where a byte is taken, RX takes the step whose row the word matches. -/
theorem TakesByte.takes {s : State} {b : Byte} {rest : List Byte} {i : Instr} (h : TakesByte s b rest)
    (hd : decodeRxb (s.rxbWord b) = some i) : s.rxTakes i :=
  ⟨_, rxSelect_byte h.enabled h.byte, decode_rxb hd⟩

/-- Where TX is in a frame, it takes the step whose row the word matches. -/
theorem txTakes_of_byte {s : State} {i : Instr} (h1 : s.tx_mode = Mode.RUNNING) (h2 : s.tx_st ≠ TxSt.TX_IDLE)
    (hd : decodeTxb s.txbWord = some i) : s.txTakes i := by
  refine ⟨.txb s.txbWord, ?_, decode_txb hd⟩
  have hh : s.txHaltEnabled = false := by
    rw [Bool.eq_false_iff, ne_eq, txHaltEnabled_iff]
    exact fun h => h2 h.2.1
  simp [State.txSelect, hh, (txByteEnabled_iff s).2 ⟨h1, h2⟩]

/-- Where a fetch attempt is enabled, TX takes the step whose row the word matches. -/
theorem txTakes_of_fetch {s : State} {i : Instr} (he : s.fetchEnabled = true)
    (hd : decodeTxb s.txbWord = some i) : s.txTakes i := by
  refine ⟨.txb s.txbWord, ?_, decode_txb hd⟩
  have h := (fetchEnabled_iff s).1 he
  have hh : s.txHaltEnabled = false := by
    rw [Bool.eq_false_iff, ne_eq, txHaltEnabled_iff]
    rintro ⟨-, -, h'⟩
    simp [h.2.2.1] at h'
  simp [State.txSelect, hh, he]

theorem rxTurns_add (k l : Nat) : rxTurns (k + l) = rxTurns k ++ rxTurns l := List.replicate_add ..

theorem txTurns_add (k l a : Nat) : txTurns (k + l) a = txTurns k a ++ txTurns l a := List.replicate_add ..

/-- The bytes of an encoded frame, and what it takes to have one. -/
theorem encodeFrame_bytes {g : Crc8Algo} {a : Byte} {p bytes : List Byte} (h : encodeFrame g a p = .bytes bytes) :
    p ≠ [] ∧ p.length ≤ 255 ∧ (BitVec.ofNat 8 p.length).toNat = p.length ∧
      bytes = [0xAA, a, BitVec.ofNat 8 p.length] ++ p ++ [crc8 g ([a, BitVec.ofNat 8 p.length] ++ p)] := by
  simp only [encodeFrame] at h
  split at h
  · cases h
  · next hn =>
    cases h
    simp only [Config.MAXLEN] at hn
    exact ⟨fun hh => hn (.inl (by simp [hh])), by omega, by simp; omega, rfl⟩

end Sys2Proof.Machine
end

