-- ==== Sys2Proof/Laws/Moves.lean ====
section
/-! SUPPORT. Everything one move can do, said once: where `takeMove` answers a next state, which instruction ran
from which state, or what the host changed. -/

namespace Sys2Proof.Machine

/-- The instruction of CTL code 0x0 alone is RESET. -/
theorem decodeCtl_reset {k : CtlCode} (h : decodeCtl k = some .reset) : k = 0x0 := by
  revert k; decide

/-- RX forms only words of its own steps, of its reserved rows, and the codes of RX_INCOMPLETE and RX_HALT. -/
theorem rxTakes_kind {s : State} {i : Instr} (h : s.rxTakes i) :
    i.ofRx = true ∨ i = .rxReservedSt5 ∨ i = .rxReservedSt67 := by
  obtain ⟨w, h1, h2⟩ := h
  rcases rxSelect_cases h1 with ⟨rfl, -⟩ | ⟨rfl, -⟩ | ⟨b, rest, -, -, rfl⟩
  · have e : decode (.ctl 0x3) = .ok .rxHalt := by decide
    rw [e] at h2; cases h2; exact .inl rfl
  · have e : decode (.ctl 0x2) = .ok .rxIncomplete := by decide
    rw [e] at h2; cases h2; exact .inl rfl
  · have key : ∀ w : RxbWord, ∀ j, decode (.rxb w) = .ok j →
        j.ofRx = true ∨ j = .rxReservedSt5 ∨ j = .rxReservedSt67 := by
      intro w j hj
      have h : ∀ w : RxbWord, ∃ j, decode (.rxb w) = .ok j ∧
          (j.ofRx = true ∨ j = .rxReservedSt5 ∨ j = .rxReservedSt67) := by
        intro w
        have hd : ∀ w : RxbWord, ((decodeRxb w).any fun j =>
            j.ofRx || j == .rxReservedSt5 || j == .rxReservedSt67) = true := by decide
        have hw := hd w
        cases e : decodeRxb w with
        | none => simp [e] at hw
        | some j =>
          refine ⟨j, decode_rxb e, ?_⟩
          simpa [e, or_assoc] using hw
      obtain ⟨j', h1, h2⟩ := h w
      rw [h1] at hj; cases hj; exact h2
    exact key _ _ h2

/-- TX forms only words of its own steps, of its reserved row, and the code of TX_HALT. -/
theorem txTakes_kind {s : State} {i : Instr} (h : s.txTakes i) : i.ofTx = true ∨ i = .txReserved := by
  obtain ⟨w, h1, h2⟩ := h
  rcases txSelect_cases h1 with ⟨rfl, -⟩ | ⟨rfl, -⟩
  · have e : decode (.ctl 0x5) = .ok .txHalt := by decide
    rw [e] at h2; cases h2; exact .inl rfl
  · have hd : ∀ w : TxbWord, ((decodeTxb w).any fun j => j.ofTx || j == .txReserved) = true := by decide
    have hw := hd s.txbWord
    cases e : decodeTxb s.txbWord with
    | none => simp [e] at hw
    | some j =>
      rw [decode_txb e] at h2; cases h2
      simpa [e] using hw

/-- What a move did. -/
inductive MoveEffect (s t : State) : Move → Prop where
  /-- a turn of RX in which RX took the step i -/
  | rxStep (ans : WriteAnswer) (i : Instr) (h : s.rxTakes i)
      (hx : exec i { s with w_ans := ans, held := false } = .next t) : MoveEffect s t (.rx ans)
  /-- a turn of RX in which RX waited -/
  | rxWait (ans : WriteAnswer) (hm : s.rx_mode ≠ Mode.UNUSED) (hn : s.rxSelect = none)
      (h : t = { s with w_ans := ans }) : MoveEffect s t (.rx ans)
  /-- a turn of TX in which TX took the step i -/
  | txStep (p : Nat) (ans : ReadAnswer) (i : Instr) (h : ({ s with pick := p, r_ans := ans } : State).txTakes i)
      (hx : exec i { s with pick := p, r_ans := ans, held := false } = .next t) : MoveEffect s t (.tx p ans)
  /-- a turn of TX in which TX waited -/
  | txWait (p : Nat) (ans : ReadAnswer) (hm : s.tx_mode ≠ Mode.UNUSED)
      (hn : ({ s with pick := p, r_ans := ans } : State).txSelect = none)
      (h : t = { s with pick := p, r_ans := ans }) : MoveEffect s t (.tx p ans)
  /-- a CTL code whose step was taken -/
  | ctlStep (k : CtlCode) (i : Instr) (h : decodeCtl k = some i) (he : s.ctlEnabled i = true)
      (hx : exec i { s with held := false } = .next t) : MoveEffect s t (.ctl k)
  /-- a CTL code whose step was not enabled -/
  | ctlIdle (k : CtlCode) (h : t = s) (hn : ∀ i, decodeCtl k = some i → s.ctlEnabled i = false) :
      MoveEffect s t (.ctl k)
  | appendLinkIn (bs : List Byte) (h : t = { s with link_in := s.link_in ++ bs }) :
      MoveEffect s t (.appendLinkIn bs)
  | drainLinkOut (c : Nat) (h : t = { s with link_out := s.link_out.drop c }) : MoveEffect s t (.drainLinkOut c)
  | appendSout (a : Nat) (bs : List Byte) (ha : a < s.cfg.n)
      (h : t = { s with sout := s.sout.set a (s.sout.get a ++ bs) }) : MoveEffect s t (.appendSout a bs)
  | readModes (h : t = s) : MoveEffect s t .readModes
  | configure (c : Config) (hc : c.n ≤ 256) (hh : s.held = true) (h : t = { s with cfg := c }) :
      MoveEffect s t (.configure c)
  /-- closing the link under a running RX is its link fault -/
  | closeRunning (hm : s.rx_mode = Mode.RUNNING) (hx : exec .rxLinkFault { s with held := false } = .next t) :
      MoveEffect s t .closeLink
  | closeEnded (p : Phase) (h : t = { s with phase := p }) : MoveEffect s t .closeLink
  | releaseEndpoints (h : t = { s with phase := .released }) : MoveEffect s t .releaseEndpoints

theorem runSelected_next {w : Option Selector} {s t : State} (h : runSelected w s = .next t) :
    (w = none ∧ t = s) ∨ ∃ v i, w = some v ∧ decode v = .ok i ∧ exec i s.release = .next t := by
  cases w with
  | none => exact .inl ⟨rfl, by cases h; rfl⟩
  | some v =>
    simp only [runSelected] at h
    split at h
    · next i hd => exact .inr ⟨v, i, rfl, hd, h⟩
    · cases h
    · cases h

/-- Everything one move can do. -/
theorem takeMove_effect {m : Move} {s t : State} (h : takeMove m s = .next t) : MoveEffect s t m := by
  cases m with
  | rx ans =>
    simp only [takeMove, rxTurn] at h
    split at h
    · cases h
    · next hm =>
      rcases runSelected_next h with ⟨hn, h⟩ | ⟨v, i, hv, hd, hx⟩
      · exact .rxWait ans (by simpa using hm) hn h
      · exact .rxStep ans i ⟨v, hv, hd⟩ hx
  | tx p ans =>
    simp only [takeMove, txTurn] at h
    split at h
    · cases h
    · next hm =>
      rcases runSelected_next h with ⟨hn, h⟩ | ⟨v, i, hv, hd, hx⟩
      · exact .txWait p ans (by simpa using hm) hn h
      · exact .txStep p ans i ⟨v, hv, hd⟩ hx
  | ctl k =>
    simp only [takeMove, ctlMove] at h
    split at h
    · cases h
    · next i hi =>
      split at h
      · next he => exact .ctlStep k i hi he h
      · next he => exact .ctlIdle k (by cases h; rfl) (fun j hj => by rw [hi] at hj; cases hj; simpa using he)
  | appendLinkIn bs => exact .appendLinkIn bs (by cases h; rfl)
  | drainLinkOut c => exact .drainLinkOut c (by cases h; rfl)
  | appendSout a bs =>
    simp only [takeMove, appendSoutMove] at h
    split at h
    · next ha => exact .appendSout a bs ha (by cases h; rfl)
    · cases h
  | readModes => exact .readModes (by cases h; rfl)
  | configure c =>
    simp only [takeMove, configureMove] at h
    split at h
    · cases h
    · next hc =>
      split at h
      · next hh => exact .configure c (by simpa [Config.wf] using hc) hh (by cases h; rfl)
      · cases h
  | closeLink =>
    simp only [takeMove, closeLinkMove] at h
    split at h
    · next hm => exact .closeRunning (by simpa using hm) h
    · split at h
      · cases h
      · exact .closeEnded _ (by cases h; rfl)
  | releaseEndpoints =>
    simp only [takeMove, releaseEndpointsMove] at h
    split at h
    · cases h
    · exact .releaseEndpoints (by cases h; rfl)

/-- Everything one step can do. -/
theorem step_effect {s t : State} (h : step s = .next t) : MoveEffect s.nextMove.2 t s.nextMove.1 :=
  takeMove_effect h

/-- Taking the next move off changes nothing but `agenda` and `free`. -/
theorem nextMove_same (s : State) : ∃ ms n, s.nextMove.2 = { s with agenda := ms, free := n } := by
  simp only [State.nextMove]
  split
  · next m rest h => exact ⟨rest, s.free, rfl⟩
  · exact ⟨s.agenda, s.free + 1, rfl⟩

end Sys2Proof.Machine
end

