-- ==== Sys2Proof/Laws/PerInstr.lean ====
section
/-! SUPPORT. The per-instruction family RowMatch: the word that `encode` gives an instruction matches one row of its
map, which is the instruction's, and no other (30_encoding.md R73 to R75). -/

namespace Sys2Proof.Laws.RowMatch

/-- The instructions of the rows that a selector matches. -/
def matching : Selector → List Instr
  | .rxb w => (rxbRows.filter (fun r => r.hits w)).map OpRow.instr
  | .txb w => (txbRows.filter (fun r => r.hits w)).map OpRow.instr
  | .ctl k => (ctlRows.filter (fun r => r.hits k)).map OpRow.instr

/-- The word of i matches the row of i alone, and it is a word that can be formed exactly where i is a step. -/
def Statement (i : Instr) : Prop := matching (encode i) = [i] ∧ (encode i).wf = i.wf

theorem inDrop : Statement .inDrop := ⟨by decide, by decide⟩
theorem inSof : Statement .inSof := ⟨by decide, by decide⟩
theorem inAddr : Statement .inAddr := ⟨by decide, by decide⟩
theorem inLen0 : Statement .inLen0 := ⟨by decide, by decide⟩
theorem inLen : Statement .inLen := ⟨by decide, by decide⟩
theorem inPay : Statement .inPay := ⟨by decide, by decide⟩
theorem inPaylast : Statement .inPaylast := ⟨by decide, by decide⟩
theorem inCrcbad : Statement .inCrcbad := ⟨by decide, by decide⟩
theorem inDeliver : Statement .inDeliver := ⟨by decide, by decide⟩
theorem inUnroutable : Statement .inUnroutable := ⟨by decide, by decide⟩
theorem rxReservedSt5 : Statement .rxReservedSt5 := ⟨by decide, by decide⟩
theorem rxReservedSt67 : Statement .rxReservedSt67 := ⟨by decide, by decide⟩
theorem outFetch : Statement .outFetch := ⟨by decide, by decide⟩
theorem outSfault : Statement .outSfault := ⟨by decide, by decide⟩
theorem outStart : Statement .outStart := ⟨by decide, by decide⟩
theorem outAddr : Statement .outAddr := ⟨by decide, by decide⟩
theorem outLen : Statement .outLen := ⟨by decide, by decide⟩
theorem outPay : Statement .outPay := ⟨by decide, by decide⟩
theorem outPaylast : Statement .outPaylast := ⟨by decide, by decide⟩
theorem outCrc : Statement .outCrc := ⟨by decide, by decide⟩
theorem txReserved : Statement .txReserved := ⟨by decide, by decide⟩
theorem reset : Statement .reset := ⟨by decide, by decide⟩
theorem setStop : Statement .setStop := ⟨by decide, by decide⟩
theorem rxIncomplete : Statement .rxIncomplete := ⟨by decide, by decide⟩
theorem rxHalt : Statement .rxHalt := ⟨by decide, by decide⟩
theorem rxLinkFault : Statement .rxLinkFault := ⟨by decide, by decide⟩
theorem txHalt : Statement .txHalt := ⟨by decide, by decide⟩
theorem txLinkFault : Statement .txLinkFault := ⟨by decide, by decide⟩

end Sys2Proof.Laws.RowMatch
end

