-- ==== Sys2Proof/Laws/Schedule.lean ====
section
/-! SUPPORT. Schedules and the step: no move reads `agenda`, so every finite part of an execution is a run of
`step` with that part of the schedule as agenda. -/

namespace Sys2Proof.Machine

/-- r with another agenda in its next state. -/
def withAgenda (ms : List Move) : Result → Result
  | .next t => .next { t with agenda := ms }
  | .fault f => .fault f
  | .refused r => .refused r

@[simp] theorem withAgenda_next (ms : List Move) (t : State) :
    withAgenda ms (.next t) = .next { t with agenda := ms } := rfl
@[simp] theorem withAgenda_fault (ms : List Move) (f : Fault) : withAgenda ms (.fault f) = .fault f := rfl
@[simp] theorem withAgenda_refused (ms : List Move) (r : Refusal) : withAgenda ms (.refused r) = .refused r := rfl

theorem withAgenda_ite (c : Prop) [Decidable c] (ms : List Move) (x y : Result) :
    withAgenda ms (if c then x else y) = if c then withAgenda ms x else withAgenda ms y := by
  split <;> rfl

theorem rxbStep_agenda {i : Instr} {s : State} {ms : List Move} {f : Byte → State → Result}
    (hf : ∀ b (u : State), f b { u with agenda := ms } = withAgenda ms (f b u)) :
    rxbStep i { s with agenda := ms } f = withAgenda ms (rxbStep i s f) := by
  have key : ∀ b rest, s.link_in = b :: rest → s.rxbEnabled = true → decodeRxb (s.rxbWord b) = some i →
      rxbStep i { s with agenda := ms } f = withAgenda ms (rxbStep i s f) := fun b rest h1 h2 h3 => by
    rw [rxbStep_eq (s := s) h1 h2 h3, rxbStep_eq (s := { s with agenda := ms }) h1 h2 h3]
    exact hf b { s with link_in := rest }
  rcases rxbStep_cases i { s with agenda := ms } f with h | ⟨b, rest, h1, h2, h3, -⟩
  · rcases rxbStep_cases i s f with h' | ⟨b, rest, h1, h2, h3, -⟩
    · rw [h, h']; rfl
    · exact key b rest h1 h2 h3
  · exact key b rest h1 h2 h3

theorem fetchStep_agenda {i : Instr} {s : State} {ms : List Move} {f g : Nat → Result}
    (hf : ∀ a, g a = withAgenda ms (f a)) :
    fetchStep i { s with agenda := ms } g = withAgenda ms (fetchStep i s f) := by
  have key : ∀ a, s.fetchEndpoint = some a → s.fetchEnabled = true → decodeTxb s.txbWord = some i →
      fetchStep i { s with agenda := ms } g = withAgenda ms (fetchStep i s f) := fun a h1 h2 h3 => by
    rw [fetchStep_eq (s := s) h1 h2 h3, fetchStep_eq (s := { s with agenda := ms }) h1 h2 h3]
    exact hf a
  rcases fetchStep_cases i { s with agenda := ms } g with h | ⟨a, h1, h2, h3, -⟩
  · rcases fetchStep_cases i s f with h' | ⟨a, h1, h2, h3, -⟩
    · rw [h, h']; rfl
    · exact key a h1 h2 h3
  · exact key a h1 h2 h3

theorem txbStep_agenda {i : Instr} {s : State} {ms : List Move} {x y : Result} (h : y = withAgenda ms x) :
    txbStep i { s with agenda := ms } y = withAgenda ms (txbStep i s x) := by
  subst h
  simp only [txbStep, withAgenda_ite]
  rfl

theorem ctlStep_agenda (e : Bool) (ms : List Move) (t : State) :
    ctlStep e { t with agenda := ms } = withAgenda ms (ctlStep e t) := by
  cases e <;> rfl

theorem routeInbound_ok {s : State} {a : Byte} {p : List Byte} (h : s.w_ans = .ok) :
    s.routeInbound a p = s.appendSin a.toNat p := by
  simp only [State.routeInbound, h]

theorem routeInbound_fault {s : State} {a : Byte} {p : List Byte} {k : Nat} (h : s.w_ans = .fault k) :
    s.routeInbound a p =
      (s.appendSin a.toNat (p.take (min k (p.length - 1)))).raise (.logicalStreamFault .rx a) := by
  simp only [State.routeInbound, h]

theorem routeInbound_agenda (s : State) (a : Byte) (p : List Byte) (ms : List Move) :
    ({ s with agenda := ms } : State).routeInbound a p = { s.routeInbound a p with agenda := ms } := by
  obtain ⟨w, h⟩ : ∃ w, s.w_ans = w := ⟨_, rfl⟩
  cases w with
  | ok =>
    rw [routeInbound_ok (s := s) h, routeInbound_ok (s := { s with agenda := ms }) h]
    rfl
  | fault k =>
    rw [routeInbound_fault (s := s) h, routeInbound_fault (s := { s with agenda := ms }) h]
    rfl

/-- No instruction reads `agenda`. -/
theorem exec_agenda (i : Instr) (s : State) (ms : List Move) :
    exec i { s with agenda := ms } = withAgenda ms (exec i s) := by
  cases i
  case inDrop =>
    show execInDrop _ = withAgenda ms (execInDrop s)
    unfold execInDrop
    exact rxbStep_agenda fun _ _ => rfl
  case inSof =>
    show execInSof _ = withAgenda ms (execInSof s)
    unfold execInSof
    exact rxbStep_agenda fun _ _ => rfl
  case inAddr =>
    show execInAddr _ = withAgenda ms (execInAddr s)
    unfold execInAddr
    exact rxbStep_agenda fun _ _ => rfl
  case inLen0 =>
    show execInLen0 _ = withAgenda ms (execInLen0 s)
    unfold execInLen0
    exact rxbStep_agenda fun _ _ => rfl
  case inLen =>
    show execInLen _ = withAgenda ms (execInLen s)
    unfold execInLen
    exact rxbStep_agenda fun _ _ => rfl
  case inPay =>
    show execInPay _ = withAgenda ms (execInPay s)
    unfold execInPay
    refine rxbStep_agenda fun b u => ?_
    simp only
    cases payloadIndex u.rx_len u.rx_rem <;> rfl
  case inPaylast =>
    show execInPaylast _ = withAgenda ms (execInPaylast s)
    unfold execInPaylast
    refine rxbStep_agenda fun b u => ?_
    simp only
    cases payloadIndex u.rx_len u.rx_rem <;> rfl
  case inCrcbad =>
    show execInCrcbad _ = withAgenda ms (execInCrcbad s)
    unfold execInCrcbad
    exact rxbStep_agenda fun _ _ => rfl
  case inDeliver =>
    show execInDeliver _ = withAgenda ms (execInDeliver s)
    unfold execInDeliver
    refine rxbStep_agenda fun b u => ?_
    simp only [routeInbound_agenda, withAgenda_next]
    rfl
  case inUnroutable =>
    show execInUnroutable _ = withAgenda ms (execInUnroutable s)
    unfold execInUnroutable
    exact rxbStep_agenda fun _ _ => rfl
  case rxReservedSt5 => rfl
  case rxReservedSt67 => rfl
  case outFetch =>
    show execOutFetch _ = withAgenda ms (execOutFetch s)
    unfold execOutFetch
    exact fetchStep_agenda fun _ => rfl
  case outSfault =>
    show execOutSfault _ = withAgenda ms (execOutSfault s)
    unfold execOutSfault
    exact fetchStep_agenda fun _ => rfl
  case outStart =>
    show execOutStart _ = withAgenda ms (execOutStart s)
    unfold execOutStart
    exact txbStep_agenda rfl
  case outAddr =>
    show execOutAddr _ = withAgenda ms (execOutAddr s)
    unfold execOutAddr
    exact txbStep_agenda rfl
  case outLen =>
    show execOutLen _ = withAgenda ms (execOutLen s)
    unfold execOutLen
    exact txbStep_agenda rfl
  case outPay =>
    show execOutPay _ = withAgenda ms (execOutPay s)
    unfold execOutPay
    refine txbStep_agenda ?_
    simp only
    cases payloadIndex s.tx_len s.tx_rem <;> rfl
  case outPaylast =>
    show execOutPaylast _ = withAgenda ms (execOutPaylast s)
    unfold execOutPaylast
    refine txbStep_agenda ?_
    simp only
    cases payloadIndex s.tx_len s.tx_rem <;> rfl
  case outCrc =>
    show execOutCrc _ = withAgenda ms (execOutCrc s)
    unfold execOutCrc
    exact txbStep_agenda rfl
  case txReserved => rfl
  case reset =>
    show execReset _ = withAgenda ms (execReset s)
    simp only [execReset, withAgenda_next, State.applyReset]
  case setStop => rfl
  case rxIncomplete => exact ctlStep_agenda s.rxIncompleteEnabled ms { s with rx_poll := true }
  case rxHalt => exact ctlStep_agenda s.rxHaltEnabled ms { s with rx_mode := Mode.STOPPED }
  case rxLinkFault => exact ctlStep_agenda s.rxLinkFaultEnabled ms (s.linkFault .rx)
  case txHalt => exact ctlStep_agenda s.txHaltEnabled ms { s with tx_mode := Mode.STOPPED }
  case txLinkFault => exact ctlStep_agenda s.txLinkFaultEnabled ms (s.linkFault .tx)

theorem runSelected_agenda (w : Option Selector) (s : State) (ms : List Move) :
    runSelected w { s with agenda := ms } = withAgenda ms (runSelected w s) := by
  cases w with
  | none => rfl
  | some v =>
    simp only [runSelected]
    split
    · exact exec_agenda _ s.release ms
    · rfl
    · rfl

/-- No move reads `agenda`. -/
theorem takeMove_agenda (m : Move) (s : State) (ms : List Move) :
    takeMove m { s with agenda := ms } = withAgenda ms (takeMove m s) := by
  cases m with
  | rx ans =>
    simp only [takeMove, rxTurn, withAgenda_ite]
    rw [← runSelected_agenda]
    rfl
  | tx p ans =>
    simp only [takeMove, txTurn, withAgenda_ite]
    rw [← runSelected_agenda]
    rfl
  | ctl k =>
    simp only [takeMove, ctlMove]
    cases decodeCtl k with
    | none => rfl
    | some i =>
      simp only [withAgenda_ite, ← exec_agenda]
      rfl
  | appendLinkIn bs => rfl
  | drainLinkOut c => rfl
  | appendSout a bs => simp only [takeMove, appendSoutMove, withAgenda_ite]; rfl
  | readModes => rfl
  | configure c => simp only [takeMove, configureMove, withAgenda_ite]; rfl
  | closeLink => simp only [takeMove, closeLinkMove, withAgenda_ite, ← exec_agenda]; rfl
  | releaseEndpoints => simp only [takeMove, releaseEndpointsMove, withAgenda_ite]; rfl

/-- Every finite part of an execution is a run of `step`: with the moves σ 0 … σ (k − 1) as agenda, k steps lead
from r 0 to r k. -/
theorem execution_run {σ : Nat → Move} {r : Nat → State} (h : IsExecution σ r) (k : Nat) (ms : List Move) :
    run k { r 0 with agenda := (List.range k).map σ ++ ms } = .next { r k with agenda := ms } := by
  induction k generalizing ms with
  | zero => rfl
  | succ k ih =>
    have e : (List.range (k + 1)).map σ ++ ms = (List.range k).map σ ++ (σ k :: ms) := by
      simp [List.range_succ]
    have hs : step { r k with agenda := σ k :: ms } = .next { r (k + 1) with agenda := ms } := by
      rw [step_cons rfl]
      exact (takeMove_agenda (σ k) (r k) ms).trans (by rw [h k]; rfl)
    rw [e, run_add 1 (ih (σ k :: ms)), run_succ 0 hs, run_zero]

/-- Whether TX can step does not depend on the endpoint preferred or the answer to come. -/
theorem txCanStep_answers (s : State) (p : Nat) (ans : ReadAnswer) :
    ({ s with pick := p, r_ans := ans } : State).txCanStep = s.txCanStep := by
  have hf : ({ s with pick := p, r_ans := ans } : State).fetchEndpoint.isSome = s.fetchEndpoint.isSome := by
    rw [Bool.eq_iff_iff, fetchEndpoint_isSome, fetchEndpoint_isSome]
  have he : ({ s with pick := p, r_ans := ans } : State).fetchEnabled = s.fetchEnabled := by
    simp only [State.fetchEnabled, hf]
  simp only [State.txCanStep, State.txSelect, he]
  rw [show ({ s with pick := p, r_ans := ans } : State).txHaltEnabled = s.txHaltEnabled from rfl,
    show ({ s with pick := p, r_ans := ans } : State).txByteEnabled = s.txByteEnabled from rfl]
  split
  · rfl
  · split <;> rfl

end Sys2Proof.Machine
end

