-- ==== Sys2Proof/Tests/Slice0.lean ====
section
/-! SUPPORT. The model's own tests: well-formedness checks with an ill-formed term for each, the words of
30_encoding.md, the vectors of 95_test_vectors.md one step at a time, and, for every obligation with hypotheses, a
concrete state that meets them all. Expected values are the spec's, not the model's. -/

namespace Sys2Proof.Tests

open Sys2Proof Sys2Proof.Machine

/-! ### Ill-formed terms are refused (30_encoding.md R69, R71, R72, R76, 00_scope.md R6, 60_exceptions.md R171) -/

theorem test_wf_reserved_instr :
    Instr.wf .rxReservedSt5 = false ∧ Instr.wf .rxReservedSt67 = false ∧ Instr.wf .txReserved = false ∧
      Instr.wf .inDrop = true := by decide

/-- M outside AWAIT_START, Z outside READ_LENGTH, L outside READ_PAYLOAD, C and R outside READ_CHECKSUM, ST 5. -/
theorem test_wf_rxb :
    (Selector.rxb 0b00110000).wf = false ∧ (Selector.rxb 0b00001000).wf = false ∧
      (Selector.rxb 0b01000100).wf = false ∧ (Selector.rxb 0b01100010).wf = false ∧
      (Selector.rxb 0b01100001).wf = false ∧ (Selector.rxb 0b10100000).wf = false ∧
      (Selector.rxb 0b10000001).wf = true := by decide

/-- L outside TX_PAYLOAD, E outside TX_IDLE, ST 6. -/
theorem test_wf_txb :
    (Selector.txb 0b00010).wf = false ∧ (Selector.txb 0b00101).wf = false ∧ (Selector.txb 0b11000).wf = false ∧
      (Selector.txb 0b10010).wf = true := by decide

theorem test_wf_ctl : (Selector.ctl 0x7).wf = false ∧ (Selector.ctl 0xF).wf = false ∧
    (Selector.ctl 0x6).wf = true := by decide

theorem test_wf_config : Config.wf { n := 257, algo := Crc8Algo.dflt } = false ∧
    Config.wf { n := 256, algo := Crc8Algo.dflt } = true ∧ Config.wf { n := 0, algo := Crc8Algo.dflt } = true := by
  decide

theorem test_wf_move :
    Move.wf { n := 2, algo := Crc8Algo.dflt } (.ctl 0x7) = false ∧
      Move.wf { n := 2, algo := Crc8Algo.dflt } (.appendSout 2 [0x41]) = false ∧
      Move.wf { n := 2, algo := Crc8Algo.dflt } (.configure { n := 257, algo := Crc8Algo.dflt }) = false ∧
      Move.wf { n := 2, algo := Crc8Algo.dflt } (.appendSout 1 [0x41]) = true := by decide

theorem test_wf_memory : ¬ Memory.wf [(3, 0x00)] ∧ ¬ Memory.wf [(3, 0x01), (2, 0x01)] ∧
    Memory.wf [(2, 0x01), (3, 0x01)] ∧ Memory.wf State.reset.rx_buf ∧ Memory.wf State.reset.tx_buf ∧
    State.reset.sin.wf ∧ State.reset.sout.wf := by decide

/-! ### Words written out bit by bit (30_encoding.md R73 to R75), the second with its don't-care bits set -/

theorem test_decode_rxb_start : decode (.rxb 0b00000000) = .ok .inDrop ∧ decode (.rxb 0b00001111) = .ok .inDrop ∧
    decode (.rxb 0b00010000) = .ok .inSof ∧ decode (.rxb 0b00011111) = .ok .inSof := by decide
theorem test_decode_rxb_header : decode (.rxb 0b00100000) = .ok .inAddr ∧ decode (.rxb 0b00111111) = .ok .inAddr ∧
    decode (.rxb 0b01001000) = .ok .inLen0 ∧ decode (.rxb 0b01011111) = .ok .inLen0 ∧
    decode (.rxb 0b01000000) = .ok .inLen ∧ decode (.rxb 0b01010111) = .ok .inLen := by decide
theorem test_decode_rxb_payload : decode (.rxb 0b01100000) = .ok .inPay ∧ decode (.rxb 0b01111011) = .ok .inPay ∧
    decode (.rxb 0b01100100) = .ok .inPaylast ∧ decode (.rxb 0b01111111) = .ok .inPaylast := by decide
theorem test_decode_rxb_checksum : decode (.rxb 0b10000000) = .ok .inCrcbad ∧
    decode (.rxb 0b10011101) = .ok .inCrcbad ∧ decode (.rxb 0b10000011) = .ok .inDeliver ∧
    decode (.rxb 0b10011111) = .ok .inDeliver ∧ decode (.rxb 0b10000010) = .ok .inUnroutable ∧
    decode (.rxb 0b10011110) = .ok .inUnroutable := by decide
theorem test_decode_rxb_reserved : decode (.rxb 0b10100000) = .ok .rxReservedSt5 ∧
    decode (.rxb 0b10111111) = .ok .rxReservedSt5 ∧ decode (.rxb 0b11000000) = .ok .rxReservedSt67 ∧
    decode (.rxb 0b11111111) = .ok .rxReservedSt67 := by decide
theorem test_decode_txb_fetch : decode (.txb 0b00000) = .ok .outFetch ∧ decode (.txb 0b00010) = .ok .outFetch ∧
    decode (.txb 0b00001) = .ok .outSfault ∧ decode (.txb 0b00011) = .ok .outSfault := by decide
theorem test_decode_txb_header : decode (.txb 0b00100) = .ok .outStart ∧ decode (.txb 0b00111) = .ok .outStart ∧
    decode (.txb 0b01000) = .ok .outAddr ∧ decode (.txb 0b01011) = .ok .outAddr ∧
    decode (.txb 0b01100) = .ok .outLen ∧ decode (.txb 0b01111) = .ok .outLen := by decide
theorem test_decode_txb_payload : decode (.txb 0b10000) = .ok .outPay ∧ decode (.txb 0b10001) = .ok .outPay ∧
    decode (.txb 0b10010) = .ok .outPaylast ∧ decode (.txb 0b10011) = .ok .outPaylast ∧
    decode (.txb 0b10100) = .ok .outCrc ∧ decode (.txb 0b10111) = .ok .outCrc ∧
    decode (.txb 0b11000) = .ok .txReserved ∧ decode (.txb 0b11111) = .ok .txReserved := by decide
theorem test_decode_ctl : decode (.ctl 0b0000) = .ok .reset ∧ decode (.ctl 0b0001) = .ok .setStop ∧
    decode (.ctl 0b0010) = .ok .rxIncomplete ∧ decode (.ctl 0b0011) = .ok .rxHalt ∧
    decode (.ctl 0b0100) = .ok .rxLinkFault ∧ decode (.ctl 0b0101) = .ok .txHalt ∧
    decode (.ctl 0b0110) = .ok .txLinkFault ∧ decode (.ctl 0b0111) = .error (.reservedCtl 7) ∧
    decode (.ctl 0b1111) = .error (.reservedCtl 15) := by decide

/-- The opcode table's words at their own widths: 8 bits RXB, 5 bits TXB, 4 bits CTL. -/
theorem test_decodeTableWord : decodeTableWord 8 0x83 = some .inDeliver ∧ decodeTableWord 5 0x00 = some .outFetch ∧
    decodeTableWord 4 0x0 = some .reset ∧ decodeTableWord 4 0x7 = none ∧ decodeTableWord 8 0x14 = some .outCrc ∧
    decodeTableWord 8 0x05 = some .txHalt := by decide

/-! ### The checksum and the codec (95_test_vectors.md sections 2.1, 2.2 and 2.4) -/

theorem test_crc8_short : crc8 Crc8Algo.dflt [] = 0x00 ∧ crc8 Crc8Algo.dflt [0xFF] = 0xF3 ∧
    crc8 Crc8Algo.dflt [0x00, 0x02, 0x01, 0x02] = 0xCD ∧ crc8 Crc8Algo.dflt [0x01, 0x02, 0x10, 0x20] = 0x77 ∧
    crc8 Crc8Algo.dflt [0x01, 0x01, 0x12] = 0x00 ∧ crc8 Crc8Algo.dflt [0x01, 0x01, 0x9F] = 0xAA := by decide +kernel

theorem test_crc8_check_values :
    crc8 Crc8Algo.dflt [0x31, 0x32, 0x33, 0x34, 0x35, 0x36, 0x37, 0x38, 0x39] = 0xF4 ∧
      crc8 { poly := 0x31, init := 0x00, refin := true, refout := true, xorout := 0x00 }
        [0x31, 0x32, 0x33, 0x34, 0x35, 0x36, 0x37, 0x38, 0x39] = 0xA1 ∧
      crc8 { poly := 0x07, init := 0x00, refin := false, refout := false, xorout := 0x55 }
        [0x31, 0x32, 0x33, 0x34, 0x35, 0x36, 0x37, 0x38, 0x39] = 0xA1 ∧
      crc8 { poly := 0x2F, init := 0xFF, refin := false, refout := false, xorout := 0xFF }
        [0x31, 0x32, 0x33, 0x34, 0x35, 0x36, 0x37, 0x38, 0x39] = 0xDF := by decide +kernel

theorem test_encode : encodeFrame Crc8Algo.dflt 0x00 [0x01, 0x02] = .bytes [0xAA, 0x00, 0x02, 0x01, 0x02, 0xCD] ∧
    encodeFrame Crc8Algo.dflt 0x03 [0xAA, 0xAA] = .bytes [0xAA, 0x03, 0x02, 0xAA, 0xAA, 0x29] ∧
    encodeFrame Crc8Algo.dflt 0xFF [0x01] = .bytes [0xAA, 0xFF, 0x01, 0x01, 0x39] ∧
    encodeFrame Crc8Algo.dflt 0x05 [] = .oversizedPayload 0 ∧
    encodeFrame Crc8Algo.dflt 0x05 (List.replicate 256 0x00) = .oversizedPayload 256 := by decide +kernel

theorem test_resolve : resolve { n := 4, algo := Crc8Algo.dflt } 3 = .stream 3 ∧
    resolve { n := 4, algo := Crc8Algo.dflt } 4 = .unroutableAddress 4 ∧
    resolve { n := 0, algo := Crc8Algo.dflt } 0 = .unroutableAddress 0 ∧
    resolve { n := 256, algo := Crc8Algo.dflt } 255 = .stream 255 := by decide

/-- 60_exceptions.md R154: codes and the fields each record has. -/
theorem test_event_codes : (Event.malformedZeroLength 5).code = 0x01 ∧ (Event.malformedZeroLength 5).reason = some 0x01 ∧
    (Event.malformedChecksum 0 2 0xCD 0xCE).reason = some 0x02 ∧ (Event.unroutableAddress 4 1).code = 0x02 ∧
    (Event.oversizedPayload 256).code = 0x03 ∧ (Event.oversizedPayload 256).dir = none ∧
    (Event.logicalStreamFault .tx 1).code = 0x04 ∧ (Event.linkFault .rx).code = 0x05 ∧
    (Event.linkFault .rx).addr = none := by decide

theorem test_chunks_of_600 : chunkCount 600 = 3 ∧ chunkCount 255 = 1 ∧ chunkCount 256 = 2 := by decide

/-! ### One step at a time (95_test_vectors.md sections 2.3, 2.5 and 2.6) -/

/-- The result is a next state with property p. -/
def nextWith (r : Result) (p : State → Bool) : Bool :=
  match r with
  | .next t => p t
  | .fault _ => false
  | .refused _ => false

/-- N = n, RX at st with the bytes bs on the link, a decode call in progress. -/
def rxAt (n : Nat) (st : StCode) (bs : List Byte) : State :=
  { State.reset with cfg := { n := n, algo := Crc8Algo.dflt }, rx_st := st, rx_poll := false, link_in := bs }

/-- N = n, TX at st. -/
def txAt (n : Nat) (st : StCode) : State :=
  { State.reset with cfg := { n := n, algo := Crc8Algo.dflt }, tx_st := st }

theorem test_in_drop : nextWith (exec .inDrop { rxAt 4 0 [0x55, 0x01] with rx_poll := true }) (fun t =>
    t.rx_st == 0 && t.rx_poll == false && t.link_in == [0x01] && t.log == []) = true := by decide
theorem test_in_sof : nextWith (exec .inSof { rxAt 4 0 [0xAA] with rx_crc := 0x33 }) (fun t =>
    t.rx_st == 1 && t.rx_crc == 0x00 && t.log == []) = true := by decide
theorem test_in_addr_marker_is_data : nextWith (exec .inAddr (rxAt 4 1 [0xAA])) (fun t =>
    t.rx_st == 2 && t.rx_addr == 0xAA && t.rx_crc == 0x5F) = true := by decide
theorem test_in_len0 : nextWith (exec .inLen0 { rxAt 4 2 [0x00] with rx_addr := 5 }) (fun t =>
    t.rx_st == 0 && t.rx_poll == true && t.log == [.malformedZeroLength 5]) = true := by decide
theorem test_in_len : nextWith (exec .inLen (rxAt 4 2 [0x02])) (fun t =>
    t.rx_st == 3 && t.rx_len == 2 && t.rx_rem == 2 && t.rx_crc == 0x0E) = true := by decide
theorem test_in_pay : nextWith (exec .inPay { rxAt 4 3 [0x01] with rx_len := 2, rx_rem := 2, rx_crc := 0x0E })
    (fun t => t.rx_buf == [(0, 0x01)] && t.rx_rem == 1 && t.rx_crc == 0x2D && t.rx_st == 3) = true := by decide
theorem test_in_paylast :
    nextWith (exec .inPaylast { rxAt 4 3 [0x02] with rx_len := 2, rx_rem := 1, rx_crc := 0x2D })
    (fun t => t.rx_buf == [(1, 0x02)] && t.rx_rem == 0 && t.rx_crc == 0xCD && t.rx_st == 4) = true := by decide
theorem test_in_crcbad : nextWith (exec .inCrcbad { rxAt 4 4 [0xCE] with rx_len := 2, rx_crc := 0xCD }) (fun t =>
    t.rx_st == 0 && t.rx_poll == true && t.sin == [] && t.log == [.malformedChecksum 0 2 0xCD 0xCE]) = true := by
  decide
/-- No UNROUTABLE_ADDRESS when the checksum fails. -/
theorem test_in_crcbad_unroutable :
    nextWith (exec .inCrcbad { rxAt 4 4 [0x00] with rx_addr := 9, rx_len := 2, rx_crc := 0xCD }) (fun t =>
      t.log == [.malformedChecksum 9 2 0xCD 0x00]) = true := by decide
/-- Checksum 0x00 is valid; address 1. -/
theorem test_in_deliver :
    nextWith (exec .inDeliver { rxAt 4 4 [0x00] with rx_addr := 1, rx_len := 1, rx_buf := [(0, 0x12)] }) (fun t =>
      t.sin == [(1, [0x12])] && t.rx_st == 0 && t.rx_poll == true && t.log == []) = true := by decide
theorem test_in_deliver_write_fault :
    nextWith (exec .inDeliver { rxAt 4 4 [0x00] with rx_len := 1, rx_buf := [(0, 0x07)], w_ans := .fault 0 }) (fun t =>
      t.sin == [] && t.rx_st == 0 && t.log == [.logicalStreamFault .rx 0]) = true := by decide
theorem test_in_unroutable :
    nextWith (exec .inUnroutable { rxAt 4 4 [0x27] with rx_addr := 4, rx_len := 1, rx_crc := 0x27 }) (fun t =>
      t.sin == [] && t.rx_st == 0 && t.log == [.unroutableAddress 4 1]) = true := by decide
theorem test_out_fetch : nextWith (exec .outFetch { txAt 1 0 with sout := [(0, [0x01, 0x02])] }) (fun t =>
    t.tx_addr == 0 && t.tx_len == 2 && t.tx_rem == 2 && t.tx_crc == 0x00 && t.tx_st == 1 && t.sout == [] &&
      t.tx_buf == [(0, 0x01), (1, 0x02)]) = true := by decide
theorem test_out_sfault :
    nextWith (exec .outSfault { txAt 2 0 with sout := [(1, [0x41])], r_ans := .fault 0 }) (fun t =>
      t.tx_st == 0 && t.sout == [(1, [0x41])] && t.log == [.logicalStreamFault .tx 1]) = true := by decide
theorem test_out_start : nextWith (exec .outStart (txAt 1 1)) (fun t =>
    t.link_out == [0xAA] && t.tx_st == 2) = true := by decide
theorem test_out_addr : nextWith (exec .outAddr { txAt 1 2 with tx_addr := 0xAA }) (fun t =>
    t.link_out == [0xAA] && t.tx_crc == 0x5F && t.tx_st == 3) = true := by decide
theorem test_out_len : nextWith (exec .outLen { txAt 1 3 with tx_len := 2 }) (fun t =>
    t.link_out == [0x02] && t.tx_crc == 0x0E && t.tx_st == 4) = true := by decide
theorem test_out_pay :
    nextWith (exec .outPay { txAt 1 4 with tx_len := 2, tx_rem := 2, tx_crc := 0x0E, tx_buf := [(0, 1), (1, 2)] })
      (fun t => t.link_out == [0x01] && t.tx_crc == 0x2D && t.tx_rem == 1 && t.tx_st == 4) = true := by decide
theorem test_out_paylast :
    nextWith (exec .outPaylast { txAt 1 4 with tx_len := 2, tx_rem := 1, tx_crc := 0x2D, tx_buf := [(0, 1), (1, 2)] })
      (fun t => t.link_out == [0x02] && t.tx_crc == 0xCD && t.tx_rem == 0 && t.tx_st == 5) = true := by decide
theorem test_out_crc : nextWith (exec .outCrc { txAt 1 5 with tx_crc := 0xCD }) (fun t =>
    t.link_out == [0xCD] && t.tx_st == 0) = true := by decide
theorem test_reset :
    nextWith (exec .reset { rxAt 4 3 [0x01] with stop := true, rx_mode := 2, tx_mode := 1, log := [.linkFault .rx] })
      (fun t => t.stop == false && t.rx_mode == 0 && t.tx_mode == 0 && t.rx_st == 0 && t.rx_poll == true &&
        t.log == [] && t.link_in == [0x01]) = true := by decide
theorem test_set_stop : nextWith (exec .setStop State.reset) (fun t => t.stop == true) = true := by decide
/-- The cursor is kept; with poll = 1 the step is not enabled. -/
theorem test_rx_incomplete : nextWith (exec .rxIncomplete { rxAt 1 3 [] with rx_rem := 1 }) (fun t =>
    t.rx_poll == true && t.rx_st == 3 && t.rx_rem == 1) = true ∧ ({ rxAt 1 3 [] with rx_poll := true } : State).rxSelect =
    none := by decide
/-- RX halts mid-frame at the top of its loop; with poll = 0 and a byte it takes the byte first. -/
theorem test_rx_halt : nextWith (exec .rxHalt { rxAt 1 3 [] with rx_poll := true, stop := true }) (fun t =>
    t.rx_mode == 1 && t.log == []) = true ∧
    ({ rxAt 1 3 [0x01] with stop := true, rx_rem := 1 } : State).rxSelect = some (.rxb 0x64) := by decide
theorem test_rx_link_fault : nextWith (exec .rxLinkFault (rxAt 1 3 [])) (fun t =>
    t.rx_mode == 2 && t.tx_mode == 0 && t.log == [.linkFault .rx]) = true := by decide
/-- In a frame TX does not halt. -/
theorem test_tx_halt : nextWith (exec .txHalt { txAt 1 0 with stop := true }) (fun t => t.tx_mode == 1) = true ∧
    ({ txAt 1 4 with stop := true, tx_rem := 1 } : State).txSelect = some (.txb 0x12) := by decide
theorem test_tx_link_fault :
    nextWith (exec .txLinkFault { txAt 1 3 with link_out := [0xAA, 0x00] }) (fun t =>
      t.tx_mode == 2 && t.link_out == [0xAA, 0x00] && t.log == [.linkFault .tx]) = true := by decide

/-- The words of two selectors that agents form (95_test_vectors.md section 2.3, S = 0x81 and S = 0x83). -/
theorem test_formed_words : ({ rxAt 4 4 [] with rx_crc := 0xCD } : State).rxbWord 0xCE = 0x81 ∧
    ({ rxAt 4 4 [] with rx_crc := 0xCD } : State).rxbWord 0xCD = 0x83 := by decide

/-- A step from a staged state runs the staged instruction: IN_SOF, and SET_STOP by its 4-bit code. -/
theorem test_withFetchWord : nextWith (step (State.reset.withFetchWord 8 0x10)) (fun t => t.rx_st == 1) = true ∧
    nextWith (step (State.reset.withFetchWord 4 0x1)) (fun t => t.stop == true) = true := by decide

/-- The arbitration's preference is served where it is ready, else the lowest ready endpoint. -/
theorem test_fetch_endpoint : ({ txAt 3 0 with sout := [(0, [1]), (2, [2])], pick := 2 } : State).fetchEndpoint = some 2 ∧
    ({ txAt 3 0 with sout := [(0, [1]), (2, [2])], pick := 1 } : State).fetchEndpoint = some 0 := by decide

/-! ### Witnesses: for every obligation with hypotheses, a state that meets them all, clause by clause -/

/-- Both directions mid-frame: one payload byte of two received and sent, address 0, N = 1. -/
def midFrame : State :=
  { rxAt 1 3 [0x02] with
    rx_len := 2, rx_rem := 1, rx_crc := 0x2D, rx_buf := [(0, 0x01)]
    tx_st := 4, tx_len := 2, tx_rem := 1, tx_crc := 0x2D, tx_buf := [(0, 0x01), (1, 0x02)], held := false }

/-- Both directions before their checksum byte. -/
def atChecksum : State :=
  { rxAt 1 4 [0xCD] with
    rx_len := 2, rx_crc := 0xCD, rx_buf := [(0, 0x01), (1, 0x02)]
    tx_st := 5, tx_len := 2, tx_crc := 0xCD, tx_buf := [(0, 0x01), (1, 0x02)], held := false }

theorem midFrame_inv (ms : List Move) : Inv { midFrame with agenda := ms } :=
  have h : Inv midFrame :=
    { config := by decide
      rxMode := by decide
      txMode := by decide
      rx := ⟨by decide +kernel, by decide +kernel, by decide +kernel, by decide +kernel, by decide +kernel⟩
      tx := ⟨by decide +kernel, by decide +kernel, by decide +kernel, by decide +kernel, by decide +kernel, by decide +kernel, by decide +kernel⟩
      rxBuf := by decide
      txBuf := by decide
      sin := by decide
      sout := by decide
      held := by decide }
  { h with
    rx := h.rx.of_eq rfl rfl rfl rfl rfl rfl rfl
    tx := h.tx.of_eq rfl rfl rfl rfl rfl rfl rfl }

theorem atChecksum_inv : Inv atChecksum where
  config := by decide
  rxMode := by decide
  txMode := by decide
  rx := ⟨by decide +kernel, by decide +kernel, by decide +kernel, by decide +kernel, by decide +kernel⟩
  tx := ⟨by decide +kernel, by decide +kernel, by decide +kernel, by decide +kernel, by decide +kernel, by decide +kernel, by decide +kernel⟩
  rxBuf := by decide
  txBuf := by decide
  sin := by decide
  sout := by decide
  held := by decide

/-- A byte at the top of the loop, and one after `stop` within a decode call. -/
theorem test_witness_InDropDiscardsNonMarker :
    (∃ s b rest, TakesByte s b rest ∧ s.rx_st = RxSt.AWAIT_START ∧ b ≠ 0xAA ∧ s.rx_poll = true) ∧
      ∃ s b rest, TakesByte s b rest ∧ s.rx_st = RxSt.AWAIT_START ∧ b ≠ 0xAA ∧ s.stop = true :=
  ⟨⟨{ rxAt 1 0 [0x00] with rx_poll := true }, 0x00, [], ⟨rfl, .inr rfl, rfl⟩, rfl, by decide, rfl⟩,
    ⟨{ rxAt 1 0 [0xAB] with stop := true }, 0xAB, [], ⟨rfl, .inl rfl, rfl⟩, rfl, by decide, rfl⟩⟩

theorem test_witness_InSofOpensFrame : ∃ s b rest, TakesByte s b rest ∧ s.rx_st = RxSt.AWAIT_START ∧ b = 0xAA :=
  ⟨rxAt 1 0 [0xAA], 0xAA, [], ⟨rfl, .inl rfl, rfl⟩, rfl, rfl⟩

theorem test_witness_InAddrTakesAddress : ∃ s b rest, TakesByte s b rest ∧ s.rx_st = RxSt.READ_ADDRESS :=
  ⟨rxAt 0 1 [0xFF], 0xFF, [], ⟨rfl, .inl rfl, rfl⟩, rfl⟩

theorem test_witness_InLen0RaisesZeroLength :
    ∃ s b rest, TakesByte s b rest ∧ s.rx_st = RxSt.READ_LENGTH ∧ b = 0x00 :=
  ⟨rxAt 1 2 [0x00], 0x00, [], ⟨rfl, .inl rfl, rfl⟩, rfl, rfl⟩

theorem test_witness_InLenTakesLength :
    ∃ s b rest, TakesByte s b rest ∧ s.rx_st = RxSt.READ_LENGTH ∧ b ≠ 0x00 ∧ b.toNat = 255 :=
  ⟨rxAt 1 2 [0xFF], 0xFF, [], ⟨rfl, .inl rfl, rfl⟩, rfl, by decide, rfl⟩

/-- The shortest and the longest count of R87. -/
theorem test_witness_InPayStoresPayloadByte (n : Byte) (h : n = 2 ∨ n = 255) :
    ∃ s b rest, TakesByte s b rest ∧ s.rx_buf.wf ∧ s.rx_st = RxSt.READ_PAYLOAD ∧ 2 ≤ s.rx_rem.toNat ∧
      s.rx_rem.toNat ≤ s.rx_len.toNat ∧ s.rx_rem = n := by
  rcases h with rfl | rfl
  · exact ⟨{ rxAt 1 3 [0x00] with rx_len := 2, rx_rem := 2 }, 0x00, [], ⟨rfl, .inl rfl, rfl⟩, by decide, rfl,
      by decide, by decide, rfl⟩
  · exact ⟨{ rxAt 1 3 [0x00] with rx_len := 255, rx_rem := 255 }, 0x00, [], ⟨rfl, .inl rfl, rfl⟩, by decide, rfl,
      by decide, by decide, rfl⟩

theorem test_witness_InPaylastStoresLastByte :
    ∃ s b rest, TakesByte s b rest ∧ s.rx_buf.wf ∧ s.rx_st = RxSt.READ_PAYLOAD ∧ s.rx_rem = 1 ∧
      1 ≤ s.rx_len.toNat :=
  ⟨{ rxAt 1 3 [0x00] with rx_len := 1, rx_rem := 1 }, 0x00, [], ⟨rfl, .inl rfl, rfl⟩, by decide, rfl, rfl, by decide⟩

theorem test_witness_InCrcbadRaisesChecksumMismatch :
    ∃ s b rest, TakesByte s b rest ∧ s.rx_st = RxSt.READ_CHECKSUM ∧ b ≠ crcFinal s.cfg.algo s.rx_crc :=
  ⟨rxAt 1 4 [0xAA], 0xAA, [], ⟨rfl, .inl rfl, rfl⟩, rfl, by decide⟩

/-- Address N − 1 with N = 256. -/
theorem test_witness_InDeliverAppendsPayload :
    ∃ s b rest, TakesByte s b rest ∧ s.sin.wf ∧ s.rx_st = RxSt.READ_CHECKSUM ∧
      b = crcFinal s.cfg.algo s.rx_crc ∧ s.rx_addr.toNat < s.cfg.n ∧ s.w_ans = .ok :=
  ⟨{ rxAt 256 4 [0x00] with rx_addr := 255 }, 0x00, [], ⟨rfl, .inl rfl, rfl⟩, by decide, rfl, by decide, by decide, rfl⟩

/-- k = 0 and k at the payload's length, where the model caps it. -/
theorem test_witness_InDeliverFaultAppendsShorterPart (k : Nat) :
    ∃ s b rest, TakesByte s b rest ∧ s.sin.wf ∧ s.rx_st = RxSt.READ_CHECKSUM ∧
      b = crcFinal s.cfg.algo s.rx_crc ∧ s.rx_addr.toNat < s.cfg.n ∧ 1 ≤ s.rx_len.toNat ∧ s.w_ans = .fault k :=
  ⟨{ rxAt 1 4 [0x00] with rx_len := 1, w_ans := .fault k }, 0x00, [], ⟨rfl, .inl rfl, rfl⟩, (by decide : Streams.wf []), rfl,
    (by decide : (0x00 : Byte) = crcFinal Crc8Algo.dflt 0), (by decide : (0 : Byte).toNat < 1),
    (by decide : 1 ≤ (1 : Byte).toNat), rfl⟩

/-- Address N with N = 255, and N = 0. -/
theorem test_witness_InUnroutableDropsPayload (n : Nat) (h : n ≤ 255) :
    ∃ s b rest, TakesByte s b rest ∧ s.rx_st = RxSt.READ_CHECKSUM ∧ b = crcFinal s.cfg.algo s.rx_crc ∧
      s.cfg.n ≤ s.rx_addr.toNat ∧ s.cfg.n = n :=
  ⟨{ rxAt n 4 [0x00] with rx_addr := 255 }, 0x00, [], ⟨rfl, .inl rfl, rfl⟩, rfl,
    (by decide : (0x00 : Byte) = crcFinal Crc8Algo.dflt 0), h, rfl⟩

/-- ST 5 and ST 7 for RX, ST 6 and ST 7 for TX. -/
theorem test_witness_ReservedStatesFault :
    (∃ s b rest ans ms, TakesByte s b rest ∧ 5 ≤ s.rx_st.toNat ∧ s.agenda = .rx ans :: ms ∧ s.rx_st = 5) ∧
      (∃ s b rest ans ms, TakesByte s b rest ∧ 5 ≤ s.rx_st.toNat ∧ s.agenda = .rx ans :: ms ∧ s.rx_st = 7) ∧
      (∃ (s : State) (p : Nat) (ans : ReadAnswer) (ms : List Move),
        s.tx_mode = Mode.RUNNING ∧ 6 ≤ s.tx_st.toNat ∧ s.agenda = .tx p ans :: ms ∧ s.tx_st = 6) ∧
      ∃ (s : State) (p : Nat) (ans : ReadAnswer) (ms : List Move),
        s.tx_mode = Mode.RUNNING ∧ 6 ≤ s.tx_st.toNat ∧ s.agenda = .tx p ans :: ms ∧ s.tx_st = 7 :=
  ⟨⟨{ rxAt 1 5 [0x00] with agenda := [.rx .ok] }, 0x00, [], .ok, [], ⟨rfl, .inl rfl, rfl⟩, by decide, rfl, rfl⟩,
    ⟨{ rxAt 1 7 [0x00] with agenda := [.rx .ok] }, 0x00, [], .ok, [], ⟨rfl, .inl rfl, rfl⟩, by decide, rfl, rfl⟩,
    ⟨{ txAt 1 6 with agenda := [.tx 0 .ok] }, 0, .ok, [], rfl, by decide, rfl, rfl⟩,
    ⟨{ txAt 1 7 with agenda := [.tx 0 .ok] }, 0, .ok, [], rfl, by decide, rfl, rfl⟩⟩

/-- One byte waits, and 256 bytes wait, more than one chunk. -/
theorem test_witness_OutFetchTakesOldestChunk (m : Nat) (h : m = 1 ∨ m = 256) :
    ∃ (s : State) (a : Nat), s.tx_mode = Mode.RUNNING ∧ s.tx_st = TxSt.TX_IDLE ∧ s.stop = false ∧
      s.fetchEndpoint = some a ∧ s.r_ans = .ok ∧ s.cfg.n ≤ 256 ∧ s.tx_buf.wf ∧ s.sout.wf ∧
      (s.sout.get a).length = m := by
  rcases h with rfl | rfl
  · exact ⟨{ txAt 256 0 with sout := [(255, [0x41])], pick := 255 }, 255, rfl, rfl, rfl, by decide, rfl, by decide,
      by decide, by decide, by decide⟩
  · exact ⟨{ txAt 1 0 with sout := [(0, List.replicate 256 0x41)] }, 0, rfl, rfl, rfl, by decide +kernel, rfl,
      by decide, by decide, by decide +kernel, by decide +kernel⟩

/-- For every k of the host, below, at and above c = 1. -/
theorem test_witness_OutSfaultRaisesStreamFault (k : Nat) :
    ∃ (s : State) (a : Nat), s.tx_mode = Mode.RUNNING ∧ s.tx_st = TxSt.TX_IDLE ∧ s.stop = false ∧
      s.fetchEndpoint = some a ∧ s.r_ans = .fault k ∧ s.cfg.n ≤ 256 ∧ s.sout.wf ∧
      min (s.sout.get a).length 255 = 1 :=
  ⟨{ txAt 1 0 with sout := [(0, [0x41])], r_ans := .fault k }, 0, rfl, rfl, rfl, rfl, rfl,
    (by decide : 1 ≤ 256), (by decide : Streams.wf [(0, [0x41])]), rfl⟩

theorem test_witness_tx_header_states :
    (∃ s : State, s.tx_mode = Mode.RUNNING ∧ s.tx_st = TxSt.TX_START) ∧
      (∃ s : State, s.tx_mode = Mode.RUNNING ∧ s.tx_st = TxSt.TX_ADDR) ∧
      (∃ s : State, s.tx_mode = Mode.RUNNING ∧ s.tx_st = TxSt.TX_LEN) ∧
      ∃ s : State, s.tx_mode = Mode.RUNNING ∧ s.tx_st = TxSt.TX_CRC :=
  ⟨⟨txAt 1 1, rfl, rfl⟩, ⟨txAt 1 2, rfl, rfl⟩, ⟨txAt 1 3, rfl, rfl⟩, ⟨txAt 1 5, rfl, rfl⟩⟩

theorem test_witness_OutPaySendsPayloadByte :
    ∃ s : State, s.tx_mode = Mode.RUNNING ∧ s.tx_st = TxSt.TX_PAYLOAD ∧ 2 ≤ s.tx_rem.toNat ∧
      s.tx_rem.toNat ≤ s.tx_len.toNat :=
  ⟨{ txAt 1 4 with tx_len := 2, tx_rem := 2 }, rfl, rfl, by decide, by decide⟩

theorem test_witness_OutPaylastSendsLastByte :
    ∃ s : State, s.tx_mode = Mode.RUNNING ∧ s.tx_st = TxSt.TX_PAYLOAD ∧ s.tx_rem = 1 ∧ 1 ≤ s.tx_len.toNat :=
  ⟨{ txAt 1 4 with tx_len := 1, tx_rem := 1 }, rfl, rfl, rfl, by decide⟩

/-- Count 0, and count len + 1 with len = 0, where the row is the last byte's; for each direction. -/
theorem test_witness_PayloadCountOutOfRangeFaults :
    (∃ s b rest, TakesByte s b rest ∧ s.rx_st = RxSt.READ_PAYLOAD ∧ s.rx_rem = 0) ∧
      (∃ s b rest, TakesByte s b rest ∧ s.rx_st = RxSt.READ_PAYLOAD ∧ s.rx_len.toNat < s.rx_rem.toNat ∧
        s.rx_rem = 1) ∧
      (∃ s : State, s.tx_mode = Mode.RUNNING ∧ s.tx_st = TxSt.TX_PAYLOAD ∧ s.tx_rem = 0) ∧
      ∃ s : State, s.tx_mode = Mode.RUNNING ∧ s.tx_st = TxSt.TX_PAYLOAD ∧ s.tx_len.toNat < s.tx_rem.toNat ∧
        s.tx_rem = 1 :=
  ⟨⟨rxAt 1 3 [0x00], 0x00, [], ⟨rfl, .inl rfl, rfl⟩, rfl, rfl⟩,
    ⟨{ rxAt 1 3 [0x00] with rx_rem := 1 }, 0x00, [], ⟨rfl, .inl rfl, rfl⟩, rfl, by decide, rfl⟩,
    ⟨txAt 1 4, rfl, rfl, rfl⟩, ⟨{ txAt 1 4 with tx_rem := 1 }, rfl, rfl, by decide, rfl⟩⟩

/-- Enabled and not enabled, for each control step of the agents. -/
theorem test_witness_control_steps :
    (∃ s : State, s.rx_mode = Mode.RUNNING ∧ s.rx_poll = false ∧ s.link_in = []) ∧
      (∃ s : State, ¬ (s.rx_mode = Mode.RUNNING ∧ s.rx_poll = false ∧ s.link_in = [])) ∧
      (∃ s : State, s.rx_mode = Mode.RUNNING ∧ s.rx_poll = true ∧ s.stop = true) ∧
      (∃ s : State, ¬ (s.rx_mode = Mode.RUNNING ∧ s.rx_poll = true ∧ s.stop = true)) ∧
      (∃ s : State, s.tx_mode = Mode.RUNNING ∧ s.tx_st = TxSt.TX_IDLE ∧ s.stop = true) ∧
      (∃ s : State, ¬ (s.tx_mode = Mode.RUNNING ∧ s.tx_st = TxSt.TX_IDLE ∧ s.stop = true)) ∧
      (∃ s : State, s.rx_mode = Mode.RUNNING ∧ s.tx_mode = Mode.RUNNING) ∧
      (∃ s : State, s.rx_mode ≠ Mode.RUNNING ∧ s.tx_mode ≠ Mode.RUNNING) ∧
      ∃ (s : State) (ms : List Move), s.agenda = .closeLink :: ms ∧ s.rx_mode = Mode.RUNNING :=
  ⟨⟨rxAt 1 3 [], rfl, rfl, rfl⟩, ⟨rxAt 1 3 [0x00], by decide⟩,
    ⟨{ rxAt 1 3 [] with rx_poll := true, stop := true }, rfl, rfl, rfl⟩, ⟨rxAt 1 3 [], by decide⟩,
    ⟨{ txAt 1 0 with stop := true }, rfl, rfl, rfl⟩, ⟨{ txAt 1 4 with stop := true }, by decide⟩,
    ⟨State.reset, rfl, rfl⟩, ⟨{ State.reset with rx_mode := 1, tx_mode := 2 }, by decide, by decide⟩,
    ⟨{ State.reset with agenda := [.closeLink] }, [], rfl, rfl⟩⟩

/-- Codes 7 and 15. -/
theorem test_witness_ReservedCtlCodesAreRefused (k : CtlCode) (h : k = 7 ∨ k = 15) :
    ∃ (s : State) (ms : List Move), 7 ≤ k.toNat ∧ s.agenda = .ctl k :: ms :=
  ⟨{ State.reset with agenda := [.ctl k] }, [], by rcases h with rfl | rfl <;> decide, rfl⟩

/-- The four clauses: RX, TX, a CTL code, and an empty agenda. -/
theorem test_witness_StepRunsSelectedInstruction :
    (∃ (s : State) (ans : WriteAnswer) (ms : List Move) (w : Selector) (i : Instr),
        s.agenda = .rx ans :: ms ∧ s.rxSelect = some w ∧ decode w = .ok i) ∧
      (∃ (s : State) (p : Nat) (ans : ReadAnswer) (ms : List Move) (w : Selector) (i : Instr),
        s.agenda = .tx p ans :: ms ∧ ({ s with pick := p, r_ans := ans } : State).txSelect = some w ∧
          decode w = .ok i) ∧
      (∃ (s : State) (k : CtlCode) (ms : List Move) (i : Instr),
        s.agenda = .ctl k :: ms ∧ decode (.ctl k) = .ok i ∧ s.ctlEnabled i = true) ∧
      ∃ s : State, s.agenda = [] :=
  ⟨⟨{ rxAt 1 0 [0xAA] with agenda := [.rx .ok] }, .ok, [], .rxb 0x10, .inSof, rfl, by decide, by decide⟩,
    ⟨{ txAt 1 0 with sout := [(0, [0x41])], agenda := [.tx 0 (.fault 0)] }, 0, .fault 0, [], .txb 0x01, .outSfault,
      rfl, by decide, by decide⟩,
    ⟨{ State.reset with agenda := [.ctl 0x4] }, 0x4, [], .rxLinkFault, rfl, by decide, by decide⟩,
    ⟨State.reset, rfl⟩⟩

theorem test_witness_EveryStepKeepsInvariant : ∃ s t, Inv s ∧ step s = .next t ∧ t.rx_st ≠ s.rx_st :=
  ⟨{ midFrame with agenda := [.rx .ok] }, _, midFrame_inv _, rfl, by decide⟩

theorem test_witness_InvariantExcludesModelFaults : ∃ s, Inv s := ⟨_, midFrame_inv []⟩

/-- With a stop requested in the middle of a decode call. -/
theorem test_witness_NoiseIsDroppedSilently :
    ∃ (s : State) (noise tail : List Byte) (ms : List Move),
      s.rx_mode = Mode.RUNNING ∧ s.rx_st = RxSt.AWAIT_START ∧ (s.rx_poll = false ∨ s.stop = false) ∧
      (∀ b ∈ noise, b ≠ 0xAA) ∧ noise ≠ [] ∧ s.link_in = noise ++ tail ∧
      s.agenda = rxTurns noise.length ++ ms ∧ s.stop = true :=
  ⟨{ rxAt 1 0 [0x00, 0x55, 0xAA] with agenda := rxTurns 2, stop := true }, [0x00, 0x55], [0xAA], [], rfl, rfl,
    .inl rfl, by decide, by decide, rfl, rfl, rfl⟩

/-- A routable and an unroutable address, with and without noise. -/
theorem test_witness_EncodedFrameIsReceivedAfterNoise (n : Nat) (noise : List Byte) (h : ∀ b ∈ noise, b ≠ 0xAA) :
    ∃ (s : State) (a : Byte) (p bytes tail : List Byte) (ms : List Move),
      s.rx_mode = Mode.RUNNING ∧ s.rx_st = RxSt.AWAIT_START ∧ (s.rx_poll = false ∨ s.stop = false) ∧
      s.rx_buf.wf ∧ s.sin.wf ∧ (∀ b ∈ noise, b ≠ 0xAA) ∧ encodeFrame s.cfg.algo a p = .bytes bytes ∧
      s.link_in = noise ++ bytes ++ tail ∧ s.agenda = rxTurns (noise.length + bytes.length) ++ ms ∧
      s.cfg.n = n :=
  ⟨{ rxAt n 0 (noise ++ [0xAA, 0x00, 0x02, 0x01, 0x02, 0xCD] ++ []) with agenda := rxTurns (noise.length + 6) ++ [] },
    0x00, [0x01, 0x02], [0xAA, 0x00, 0x02, 0x01, 0x02, 0xCD], [], [], rfl, rfl, .inl rfl,
    (by decide : Memory.wf []), (by decide : Streams.wf []), h,
    (by decide +kernel : encodeFrame Crc8Algo.dflt 0x00 [0x01, 0x02] = .bytes [0xAA, 0x00, 0x02, 0x01, 0x02, 0xCD]),
    rfl, rfl, rfl⟩

/-- Two frames, the second unroutable. -/
theorem test_witness_FramesAreDeliveredInWireOrder :
    ∃ (s : State) (frames : List (Byte × List Byte)) (tail : List Byte) (ms : List Move),
      s.rx_mode = Mode.RUNNING ∧ s.rx_st = RxSt.AWAIT_START ∧ s.stop = false ∧ s.rx_buf.wf ∧ s.sin.wf ∧
      (∀ f ∈ frames, 1 ≤ f.2.length ∧ f.2.length ≤ 255) ∧
      s.link_in = (frames.map (fun f => wireFrame s.cfg.algo f.1 f.2)).flatten ++ tail ∧
      s.agenda = rxTurns ((frames.map (fun f => f.2.length + 4)).sum) ++ ms ∧ frames.length = 2 :=
  ⟨{ rxAt 1 0 [0xAA, 0x00, 0x02, 0x01, 0x02, 0xCD, 0xAA, 0x02, 0x01, 0x33, 0x5A] with agenda := rxTurns 11 },
    [(0x00, [0x01, 0x02]), (0x02, [0x33])], [], [], rfl, rfl, rfl, by decide, by decide, by decide,
    by decide +kernel, rfl, rfl⟩

/-- Every byte but START and LENGTH, every bit. -/
theorem test_witness_OneBitErrorIsRejected (i k : Nat) (hi : i < 6) (h0 : i ≠ 0) (h2 : i ≠ 2) (hk : k < 8) :
    ∃ (s : State) (a : Byte) (p bytes tail : List Byte) (ms : List Move),
      s.rx_mode = Mode.RUNNING ∧ s.rx_st = RxSt.AWAIT_START ∧ (s.rx_poll = false ∨ s.stop = false) ∧
      s.rx_buf.wf ∧ s.cfg.algo.poly.getLsbD 0 = true ∧ encodeFrame s.cfg.algo a p = .bytes bytes ∧
      i < bytes.length ∧ i ≠ 0 ∧ i ≠ 2 ∧ k < 8 ∧ s.link_in = flipBit bytes i k ++ tail ∧
      s.agenda = rxTurns bytes.length ++ ms :=
  ⟨{ rxAt 1 0 (flipBit [0xAA, 0x01, 0x02, 0x10, 0x20, 0x77] i k ++ []) with agenda := rxTurns 6 ++ [] },
    0x01, [0x10, 0x20], [0xAA, 0x01, 0x02, 0x10, 0x20, 0x77], [], [], rfl, rfl, .inl rfl,
    (by decide : Memory.wf []), (by decide : Crc8Algo.dflt.poly.getLsbD 0 = true),
    (by decide +kernel : encodeFrame Crc8Algo.dflt 0x01 [0x10, 0x20] = .bytes [0xAA, 0x01, 0x02, 0x10, 0x20, 0x77]),
    hi, h0, h2, hk, rfl, rfl⟩

/-- At the top of the loop, and in the middle of a frame. -/
theorem test_witness_RxHaltsOnSilentLink (p : Bool) :
    ∃ (s : State) (ms : List Move), s.rx_mode = Mode.RUNNING ∧ s.stop = true ∧ s.link_in = [] ∧
      s.agenda = rxTurns 2 ++ ms ∧ s.rx_poll = p :=
  ⟨{ rxAt 1 3 [] with stop := true, rx_poll := p, agenda := rxTurns 2 }, [], rfl, rfl, rfl, rfl, rfl⟩

theorem test_witness_SerializerSendsEncodedFrame :
    ∃ (s : State) (a c : Nat) (ms : List Move),
      s.tx_mode = Mode.RUNNING ∧ s.tx_st = TxSt.TX_IDLE ∧ s.stop = false ∧ s.cfg.n ≤ 256 ∧ s.tx_buf.wf ∧
      s.sout.wf ∧ a < s.cfg.n ∧ s.sout.get a ≠ [] ∧ c = min (s.sout.get a).length 255 ∧
      s.agenda = txTurns (c + 5) a ++ ms :=
  ⟨{ txAt 256 0 with sout := [(255, [0x01, 0x02])], agenda := txTurns 7 255 }, 255, 2, [], rfl, rfl, rfl, by decide,
    by decide, by decide, by decide, by decide, by decide, rfl⟩

/-- 256 bytes: two frames, the second of one byte. -/
theorem test_witness_ChunkedWriteIsSentWhole :
    ∃ (s : State) (a : Nat) (ms : List Move),
      s.tx_mode = Mode.RUNNING ∧ s.tx_st = TxSt.TX_IDLE ∧ s.stop = false ∧ s.cfg.n ≤ 256 ∧ s.tx_buf.wf ∧
      s.sout.wf ∧ a < s.cfg.n ∧
      s.agenda = txTurns ((s.sout.get a).length + 5 * chunkCount (s.sout.get a).length) a ++ ms ∧
      chunkCount (s.sout.get a).length = 2 :=
  ⟨{ txAt 1 0 with sout := [(0, List.replicate 256 0x41)], agenda := txTurns (256 + 5 * chunkCount 256) 0 }, 0, [],
    rfl, rfl, rfl, by decide, by decide, by decide +kernel, by decide, by decide +kernel, by decide +kernel⟩

/-- The longest frame, not begun: 259 bytes are to be sent. -/
theorem test_witness_TxHaltsWithinOneFrame :
    ∃ (s : State) (a : Nat) (ms : List Move), TxInv s ∧ s.tx_mode = Mode.RUNNING ∧ s.stop = true ∧
      s.agenda = txTurns 260 a ++ ms ∧ s.tx_st = TxSt.TX_START ∧ s.tx_len = 255 :=
  ⟨{ txAt 1 1 with tx_len := 255, tx_rem := 255, stop := true, agenda := txTurns 260 0 ++ [] }, 0, [],
    ⟨by decide, by decide, by decide, by decide, by decide, by decide, by decide⟩, rfl, rfl, rfl, rfl, rfl⟩

/-- The default, and another INIT. -/
theorem test_witness_DefaultCrcMatchesPrintedTable (v : Byte) :
    ∃ g : Crc8Algo, g.poly = 0x07 ∧ g.refin = false ∧ g.init = v :=
  ⟨{ Crc8Algo.dflt with init := v }, rfl, rfl, rfl⟩

theorem test_witness_CrcResidueIsZero :
    ∃ (g : Crc8Algo) (m : List Byte), g.refin = false ∧ g.refout = false ∧ g.xorout = 0 ∧ m ≠ [] :=
  ⟨Crc8Algo.dflt, [0x01], rfl, rfl, rfl, by decide⟩

theorem test_witness_OneBitErrorChangesCrc :
    ∃ (g : Crc8Algo) (m : List Byte) (i k : Nat), g.poly.getLsbD 0 = true ∧ i < m.length ∧ k < 8 :=
  ⟨Crc8Algo.dflt, [0x01, 0x02], 1, 7, by decide, by decide, by decide⟩

/-- Lengths 0, 256, 1 and 255. -/
theorem test_witness_EncodeMakesWellFormedFrames :
    (∃ p : List Byte, p.length = 0) ∧ (∃ p : List Byte, 255 < p.length ∧ p.length = 256) ∧
      (∃ p : List Byte, 1 ≤ p.length ∧ p.length ≤ 255 ∧ p.length = 1) ∧
      ∃ p : List Byte, 1 ≤ p.length ∧ p.length ≤ 255 ∧ p.length = 255 :=
  ⟨⟨[], rfl⟩, ⟨List.replicate 256 0, by decide +kernel, by decide +kernel⟩, ⟨[0], by decide, by decide, rfl⟩,
    ⟨List.replicate 255 0, by decide +kernel, by decide +kernel, by decide +kernel⟩⟩

theorem test_witness_ResolveSplitsAtTableSize :
    (∃ (c : Config) (a : Byte), a.toNat < c.n ∧ a.toNat + 1 = c.n) ∧
      ∃ (c : Config) (a : Byte), c.n ≤ a.toNat ∧ a.toNat = c.n :=
  ⟨⟨{ n := 4, algo := Crc8Algo.dflt }, 3, by decide, by decide⟩, ⟨{ n := 4, algo := Crc8Algo.dflt }, 4, by decide,
    by decide⟩⟩

theorem test_witness_RunningRegisterIsTheChecksum :
    ∃ s, Inv s ∧ s.rx_st = RxSt.READ_CHECKSUM ∧ s.tx_st = TxSt.TX_CRC := ⟨_, atChecksum_inv, rfl, rfl⟩

theorem test_witness_StopIsClearedOnlyByReset :
    ∃ s t, step s = .next t ∧ s.stop = true ∧ t.stop = false :=
  ⟨{ State.reset with stop := true, agenda := [.ctl 0x0] }, State.applyReset { State.reset with stop := true, held := false },
    rfl, rfl, rfl⟩

/-- RX halted with a byte waiting, and TX faulted. -/
theorem test_witness_EndedDirectionStaysEnded :
    (∃ s t : State, step s = .next t ∧ ¬ s.nextIsReset ∧ s.rx_mode ≠ Mode.RUNNING) ∧
      ∃ s t : State, step s = .next t ∧ ¬ s.nextIsReset ∧ s.tx_mode ≠ Mode.RUNNING :=
  ⟨⟨{ rxAt 1 0 [0xAA] with rx_mode := 1, agenda := [.rx .ok] }, _, rfl,
      (by decide : ¬ ((.rx .ok : Move) = .ctl 0x0)), by decide⟩,
    ⟨{ txAt 1 1 with tx_mode := 2, agenda := [.tx 0 .ok] }, _, rfl,
      (by decide : ¬ ((.tx 0 .ok : Move) = .ctl 0x0)), by decide⟩⟩

/-- A change under RESET; and both values of `held` with N = 256. -/
theorem test_witness_ConfigurationChangesOnlyUnderReset :
    (∃ s t : State, step s = .next t ∧ t.cfg ≠ s.cfg) ∧
      ∀ h : Bool, ∃ (s : State) (c : Config) (ms : List Move), s.agenda = .configure c :: ms ∧ c.n ≤ 256 ∧ s.held = h :=
  ⟨⟨{ State.reset with agenda := [.configure { n := 256, algo := Crc8Algo.dflt }] }, _, rfl, by decide⟩,
    fun h => ⟨{ State.reset with agenda := [.configure { n := 256, algo := Crc8Algo.dflt }], held := h }, _, [], rfl,
      by decide, rfl⟩⟩

theorem test_witness_StepLogsAtMostOneEvent : ∃ s t, step s = .next t ∧ t.log ≠ s.log :=
  ⟨{ State.reset with agenda := [.ctl 0x4] }, _, rfl, by decide⟩

theorem test_witness_DeliveryNeedsChecksumMatch : ∃ s t : State, s.sin.wf ∧ step s = .next t ∧ t.sin ≠ s.sin :=
  ⟨{ atChecksum with agenda := [.rx .ok] }, _, by decide, rfl, by decide⟩

/-- Each direction mid-frame, the other direction different in the two states. -/
theorem test_witness_DirectionsAreIndependent :
    (∃ (s t u : State) (ans : WriteAnswer) (ms ns : List Move), RxAgree s t ∧ s.agenda = .rx ans :: ms ∧
        t.agenda = .rx ans :: ns ∧ step s = .next u ∧ s.tx_st ≠ t.tx_st) ∧
      ∃ (s t u : State) (p : Nat) (ans : ReadAnswer) (ms ns : List Move), TxAgree s t ∧ s.agenda = .tx p ans :: ms ∧
        t.agenda = .tx p ans :: ns ∧ step s = .next u ∧ s.rx_st ≠ t.rx_st :=
  ⟨⟨{ midFrame with agenda := [.rx .ok] }, { midFrame with tx_st := 0, agenda := [.rx .ok] }, _, .ok, [], [],
      ⟨rfl, rfl, rfl, rfl, rfl, rfl, rfl, rfl, rfl, rfl, rfl, rfl⟩, rfl, rfl, rfl, by decide⟩,
    ⟨{ midFrame with agenda := [.tx 0 .ok] }, { midFrame with rx_st := 0, agenda := [.tx 0 .ok] }, _, 0, .ok, [], [],
      ⟨rfl, rfl, rfl, rfl, rfl, rfl, rfl, rfl, rfl, rfl, rfl⟩, rfl, rfl, rfl, by decide⟩⟩

theorem test_witness_StepCompletesOnlyWhenSelected :
    (∃ (s t : State) (i : Instr), i.ofRx = true ∧ exec i s = .next t) ∧
      (∃ (s t : State) (i : Instr), i.ofTx = true ∧ exec i s = .next t) ∧
      (∃ (s : State) (i : Instr), s.rxTakes i) ∧ ∃ (s : State) (i : Instr), s.txTakes i :=
  ⟨⟨midFrame, _, .inPaylast, rfl, rfl⟩, ⟨midFrame, _, .outPaylast, rfl, rfl⟩,
    ⟨midFrame, .inPaylast, .rxb 0x64, by decide, by decide⟩, ⟨midFrame, .outPaylast, .txb 0x12, by decide, by decide⟩⟩

theorem test_witness_IdleAgentWaits :
    (∃ (s : State) (ans : WriteAnswer) (ms : List Move), s.rxIdle ∧ s.agenda = .rx ans :: ms) ∧
      ∃ (s : State) (p : Nat) (ans : ReadAnswer) (ms : List Move), s.txIdle ∧ s.agenda = .tx p ans :: ms :=
  ⟨⟨{ State.reset with agenda := [.rx .ok] }, .ok, [], ⟨rfl, rfl, rfl, rfl⟩, rfl⟩,
    ⟨{ State.reset with agenda := [.tx 0 .ok] }, 0, .ok, [], ⟨rfl, rfl, rfl, fun _ _ => rfl⟩, rfl⟩⟩

theorem test_witness_HostActionsTouchOnlyTheirOwn :
    (∃ (s : State) (ms : List Move), s.agenda = .ctl 0x4 :: ms ∧ s.rx_mode ≠ Mode.RUNNING) ∧
      (∃ (s : State) (ms : List Move), s.agenda = .ctl 0x6 :: ms ∧ s.tx_mode ≠ Mode.RUNNING) ∧
      (∃ (s : State) (bs : List Byte) (ms : List Move), s.agenda = .appendLinkIn bs :: ms) ∧
      (∃ (s : State) (c : Nat) (ms : List Move), s.agenda = .drainLinkOut c :: ms) ∧
      ∃ (s : State) (a : Nat) (bs : List Byte) (ms : List Move), s.agenda = .appendSout a bs :: ms ∧ a < s.cfg.n ∧
        s.sout.wf :=
  ⟨⟨{ State.reset with rx_mode := 1, agenda := [.ctl 0x4] }, [], rfl, by decide⟩,
    ⟨{ State.reset with tx_mode := 2, agenda := [.ctl 0x6] }, [], rfl, by decide⟩,
    ⟨{ State.reset with agenda := [.appendLinkIn [0xAA]] }, [0xAA], [], rfl⟩,
    ⟨{ State.reset with agenda := [.drainLinkOut 3] }, 3, [], rfl⟩,
    ⟨{ State.reset with agenda := [.appendSout 0 [0x41]] }, 0, [0x41], [], rfl, by decide, by decide⟩⟩

/-- A block with `stop` set, where RX, then TX, take their halting steps and the host reads the modes for ever
after. -/
def haltingMoves : Nat → Move
  | 0 => .rx .ok
  | 1 => .tx 0 .ok
  | _ + 2 => .readModes

def haltingStates : Nat → State
  | 0 => { State.reset with stop := true, held := false }
  | 1 => { State.reset with stop := true, held := false, rx_mode := Mode.STOPPED }
  | _ + 2 => { State.reset with stop := true, held := false, rx_mode := Mode.STOPPED, tx_mode := Mode.STOPPED }

/-- The hypotheses of the first clause at n = 0, and both premises of its RX part. -/
theorem test_witness_FairExecutionsHonourStop :
    IsExecution haltingMoves haltingStates ∧ WeaklyFair haltingMoves haltingStates ∧
      (haltingStates 0).stop = true ∧ (∀ m, 0 ≤ m → haltingMoves m ≠ .ctl 0x0) ∧
      (∃ m, 0 ≤ m ∧ (haltingStates m).rx_poll = true) ∧ ∃ k, ∀ m, k ≤ m → (haltingStates m).link_in = [] := by
  refine ⟨?_, ⟨fun n h => absurd (h (n + 2) (by omega)) ?_, fun n h => absurd (h (n + 2) (by omega)) ?_⟩, rfl, ?_,
    ⟨0, Nat.le_refl 0, rfl⟩, 0, ?_⟩
  · rintro (_ | _ | n) <;> rfl
  · show ¬ (haltingStates 2).rxCanStep = true
    decide
  · show ¬ (haltingStates 2).txCanStep = true
    decide
  · rintro (_ | _ | m) - <;> simp [haltingMoves]
  · rintro (_ | _ | m) - <;> rfl

end Sys2Proof.Tests
end

section
/-! SUPPORT. A step runs the instruction its selector decodes to: the move of a CTL code, the free value where
`agenda` is empty, and the statement assembled from these and the two turns. -/

namespace Sys2Proof.Machine

/-- A CTL code decodes as a selector exactly where it has a row (30_encoding.md R75, R76). -/
theorem decode_ctl_eq_ok_iff {k : CtlCode} {i : Instr} : decode (.ctl k) = .ok i ↔ decodeCtl k = some i := by
  cases h : decodeCtl k <;> simp [decode, h]

/-- A CTL code whose step is enabled is that step, taken with RESET released. -/
theorem ctlMove_of_enabled {s : State} {k : CtlCode} {i : Instr} (hd : decode (.ctl k) = .ok i)
    (he : s.ctlEnabled i = true) : ctlMove k s = exec i s.release := by
  simp only [ctlMove, decode_ctl_eq_ok_iff.1 hd, he, if_true]

/-- Whether a CTL step is enabled is read off the machine, never off the moves to come. -/
theorem ctlEnabled_agenda (s : State) (ms : List Move) (i : Instr) :
    ({ s with agenda := ms } : State).ctlEnabled i = s.ctlEnabled i := by
  cases i <;> rfl

/-- The move of an enabled CTL code runs the code's instruction. -/
theorem step_ctl_takes {s : State} {k : CtlCode} {ms : List Move} {i : Instr} (ha : s.agenda = .ctl k :: ms)
    (hd : decode (.ctl k) = .ok i) (he : s.ctlEnabled i = true) :
    step s = exec i { s with agenda := ms, held := false } := by
  rw [step_cons ha]
  exact ctlMove_of_enabled hd ((ctlEnabled_agenda s ms i).trans he)

/-- With `agenda` empty, a step is the step that has the free value as its one scheduled move. -/
theorem step_free {s : State} (ha : s.agenda = []) :
    step s = step { s with agenda := [Config.freeMove s.free], free := s.free + 1 } := by
  have hs : ({ s with free := s.free + 1 } : State) = { s with agenda := [], free := s.free + 1 } := by rw [← ha]
  rw [step_nil ha, hs, step_cons rfl]

/-- Settles O31: the turns of RX and TX are `step_rx_takes` and `step_tx_takes`, a CTL code is `step_ctl_takes`,
and an empty `agenda` is `step_free`. -/
theorem stepRunsSelectedInstruction : Obligations.StepRunsSelectedInstruction := by
  unfold Obligations.StepRunsSelectedInstruction
  refine ⟨?rx, ?tx, ?ctl, ?free⟩
  case rx =>
    intro s ans ms w i ha hw hd
    exact step_rx_takes ha ⟨w, hw, hd⟩
  case tx =>
    intro s p ans ms w i ha hw hd
    exact step_tx_takes ha ⟨w, hw, hd⟩
  case ctl =>
    intro s k ms i ha hd he
    exact step_ctl_takes ha hd he
  case free =>
    intro s ha
    exact step_free ha

end Sys2Proof.Machine
end

section
/-! SUPPORT. What each RXB step of a good frame does where it is enabled (40_frame_codec.md R83 to R91), for a
delivery where the endpoint answers OK (42_router.md R117). -/

namespace Sys2Proof.Machine

section Forward

variable {s : State} {b : Byte} {rest : List Byte}

theorem TakesByte.exec_inSof (h : TakesByte s b rest) (hst : s.rx_st = RxSt.AWAIT_START) (hb : b = 0xAA) :
    exec .inSof s = .next { s with
      link_in := rest, rx_crc := s.cfg.algo.init, rx_st := RxSt.READ_ADDRESS, rx_poll := false } := by
  rw [exec, execInSof, rxbStep_eq h.byte h.enabled ((rxbWord_inSof s b).2 ⟨hst, hb⟩)]

theorem TakesByte.exec_inAddr (h : TakesByte s b rest) (hst : s.rx_st = RxSt.READ_ADDRESS) :
    exec .inAddr s = .next { s with
      link_in := rest, rx_addr := b, rx_crc := crcUpdate s.cfg.algo s.rx_crc b, rx_st := RxSt.READ_LENGTH,
      rx_poll := false } := by
  rw [exec, execInAddr, rxbStep_eq h.byte h.enabled ((rxbWord_inAddr s b).2 hst)]

theorem TakesByte.exec_inLen (h : TakesByte s b rest) (hst : s.rx_st = RxSt.READ_LENGTH) (hb : b ≠ 0x00) :
    exec .inLen s = .next { s with
      link_in := rest, rx_len := b, rx_rem := b, rx_crc := crcUpdate s.cfg.algo s.rx_crc b,
      rx_st := RxSt.READ_PAYLOAD, rx_poll := false } := by
  rw [exec, execInLen, rxbStep_eq h.byte h.enabled ((rxbWord_inLen s b).2 ⟨hst, hb⟩)]

theorem TakesByte.exec_inPay (h : TakesByte s b rest) (hst : s.rx_st = RxSt.READ_PAYLOAD)
    (hr : 2 ≤ s.rx_rem.toNat) (hl : s.rx_rem.toNat ≤ s.rx_len.toNat) :
    exec .inPay s = .next { s with
      link_in := rest, rx_buf := s.rx_buf.write (s.rx_len.toNat - s.rx_rem.toNat) b,
      rx_crc := crcUpdate s.cfg.algo s.rx_crc b, rx_rem := s.rx_rem - 1, rx_poll := false } := by
  have hne : s.rx_rem ≠ 1 := fun h1 => by simp [h1] at hr
  rw [exec, execInPay, rxbStep_eq h.byte h.enabled ((rxbWord_inPay s b).2 ⟨hst, hne⟩)]
  simp only [payloadIndex_eq (Nat.le_of_succ_le hr) hl]

theorem TakesByte.exec_inPaylast (h : TakesByte s b rest) (hst : s.rx_st = RxSt.READ_PAYLOAD) (hr : s.rx_rem = 1)
    (hl : 1 ≤ s.rx_len.toNat) :
    exec .inPaylast s = .next { s with
      link_in := rest, rx_buf := s.rx_buf.write (s.rx_len.toNat - 1) b,
      rx_crc := crcUpdate s.cfg.algo s.rx_crc b, rx_rem := 0, rx_st := RxSt.READ_CHECKSUM, rx_poll := false } := by
  have hj : payloadIndex s.rx_len s.rx_rem = some (s.rx_len.toNat - 1) := by
    rw [hr]; exact payloadIndex_eq (by decide) hl
  rw [exec, execInPaylast, rxbStep_eq h.byte h.enabled ((rxbWord_inPaylast s b).2 ⟨hst, hr⟩)]
  simp only [hj]

theorem TakesByte.exec_inDeliver (h : TakesByte s b rest) (hst : s.rx_st = RxSt.READ_CHECKSUM)
    (hb : b = crcFinal s.cfg.algo s.rx_crc) (hn : s.rx_addr.toNat < s.cfg.n) (hw : s.w_ans = .ok) :
    exec .inDeliver s = .next { s with
      link_in := rest, sin := s.sin.set s.rx_addr.toNat (s.sin.get s.rx_addr.toNat ++ s.rxPayload),
      rx_st := RxSt.AWAIT_START, rx_poll := true } := by
  rw [exec, execInDeliver, rxbStep_eq h.byte h.enabled ((rxbWord_inDeliver s b).2 ⟨hst, hb, hn⟩),
    routeInbound_ok (by exact hw)]
  rfl

theorem TakesByte.exec_inUnroutable (h : TakesByte s b rest) (hst : s.rx_st = RxSt.READ_CHECKSUM)
    (hb : b = crcFinal s.cfg.algo s.rx_crc) (hn : s.cfg.n ≤ s.rx_addr.toNat) :
    exec .inUnroutable s = .next { s with
      link_in := rest, log := s.log ++ [.unroutableAddress s.rx_addr s.rx_len],
      rx_st := RxSt.AWAIT_START, rx_poll := true } := by
  rw [exec, execInUnroutable, rxbStep_eq h.byte h.enabled ((rxbWord_inUnroutable s b).2 ⟨hst, hb, hn⟩)]
  rfl

end Forward

end Sys2Proof.Machine
end

section
/-! SUPPORT. A frame received by a run of RX turns (40_frame_codec.md R95): its header, its payload by induction on
the bytes still expected, its checksum byte. -/

namespace Sys2Proof.Machine

/-- RX is to read `input` in a run of turns: it is RUNNING, no stop request is honoured at the first byte, `input`
is at the head of `link_in`, and the next moves are as many turns of RX with OK answers. -/
structure RxReads (s : State) (input rest : List Byte) (ms : List Move) : Prop where
  running : s.rx_mode = Mode.RUNNING
  sampled : s.rx_poll = false ∨ s.stop = false
  link : s.link_in = input ++ rest
  turns : s.agenda = rxTurns input.length ++ ms

section Reads

variable {s : State} {b : Byte} {input rest : List Byte} {ms : List Move}

theorem RxReads.takesByte (h : RxReads s (b :: input) rest ms) : TakesByte s b (input ++ rest) :=
  ⟨h.running, h.sampled, h.link⟩

/-- The turn that reads b runs the instruction of the word that b forms. -/
theorem RxReads.step_eq {i : Instr} (h : RxReads s (b :: input) rest ms) (hd : decodeRxb (s.rxbWord b) = some i) :
    step s = exec i { s with agenda := rxTurns input.length ++ ms, w_ans := .ok, held := false } :=
  step_rx_takes h.turns (h.takesByte.takes hd)

theorem RxReads.takesByte_inTurn (h : RxReads s (b :: input) rest ms) :
    TakesByte { s with agenda := rxTurns input.length ++ ms, w_ans := .ok, held := false } b (input ++ rest) :=
  ⟨h.running, h.sampled, h.link⟩

/-- In AWAIT_START the marker opens a frame. -/
theorem RxReads.step_inSof (h : RxReads s (b :: input) rest ms) (hst : s.rx_st = RxSt.AWAIT_START) (hb : b = 0xAA) :
    ∃ t, step s = .next t ∧ RxReads t input rest ms ∧
      t = { s with
        link_in := input ++ rest, agenda := rxTurns input.length ++ ms, w_ans := .ok, held := false
        rx_crc := s.cfg.algo.init, rx_st := RxSt.READ_ADDRESS, rx_poll := false } :=
  ⟨_, (h.step_eq ((rxbWord_inSof s b).2 ⟨hst, hb⟩)).trans (h.takesByte_inTurn.exec_inSof hst hb),
    ⟨h.running, .inl rfl, rfl, rfl⟩, rfl⟩

theorem RxReads.step_inAddr (h : RxReads s (b :: input) rest ms) (hst : s.rx_st = RxSt.READ_ADDRESS) :
    ∃ t, step s = .next t ∧ RxReads t input rest ms ∧
      t = { s with
        link_in := input ++ rest, agenda := rxTurns input.length ++ ms, w_ans := .ok, held := false
        rx_addr := b, rx_crc := crcUpdate s.cfg.algo s.rx_crc b
        rx_st := RxSt.READ_LENGTH, rx_poll := false } :=
  ⟨_, (h.step_eq ((rxbWord_inAddr s b).2 hst)).trans (h.takesByte_inTurn.exec_inAddr hst),
    ⟨h.running, .inl rfl, rfl, rfl⟩, rfl⟩

theorem RxReads.step_inLen (h : RxReads s (b :: input) rest ms) (hst : s.rx_st = RxSt.READ_LENGTH) (hb : b ≠ 0x00) :
    ∃ t, step s = .next t ∧ RxReads t input rest ms ∧
      t = { s with
        link_in := input ++ rest, agenda := rxTurns input.length ++ ms, w_ans := .ok, held := false
        rx_len := b, rx_rem := b, rx_crc := crcUpdate s.cfg.algo s.rx_crc b
        rx_st := RxSt.READ_PAYLOAD, rx_poll := false } :=
  ⟨_, (h.step_eq ((rxbWord_inLen s b).2 ⟨hst, hb⟩)).trans (h.takesByte_inTurn.exec_inLen hst hb),
    ⟨h.running, .inl rfl, rfl, rfl⟩, rfl⟩

theorem RxReads.step_inPay (h : RxReads s (b :: input) rest ms) (hst : s.rx_st = RxSt.READ_PAYLOAD)
    (hr : 2 ≤ s.rx_rem.toNat) (hl : s.rx_rem.toNat ≤ s.rx_len.toNat) :
    ∃ t, step s = .next t ∧ RxReads t input rest ms ∧
      t = { s with
        link_in := input ++ rest, agenda := rxTurns input.length ++ ms, w_ans := .ok, held := false
        rx_buf := s.rx_buf.write (s.rx_len.toNat - s.rx_rem.toNat) b
        rx_crc := crcUpdate s.cfg.algo s.rx_crc b, rx_rem := s.rx_rem - 1, rx_poll := false } :=
  have hne : s.rx_rem ≠ 1 := fun h1 => by simp [h1] at hr
  ⟨_, (h.step_eq ((rxbWord_inPay s b).2 ⟨hst, hne⟩)).trans (h.takesByte_inTurn.exec_inPay hst hr hl),
    ⟨h.running, .inl rfl, rfl, rfl⟩, rfl⟩

theorem RxReads.step_inPaylast (h : RxReads s (b :: input) rest ms) (hst : s.rx_st = RxSt.READ_PAYLOAD)
    (hr : s.rx_rem = 1) (hl : 1 ≤ s.rx_len.toNat) :
    ∃ t, step s = .next t ∧ RxReads t input rest ms ∧
      t = { s with
        link_in := input ++ rest, agenda := rxTurns input.length ++ ms, w_ans := .ok, held := false
        rx_buf := s.rx_buf.write (s.rx_len.toNat - 1) b
        rx_crc := crcUpdate s.cfg.algo s.rx_crc b, rx_rem := 0, rx_st := RxSt.READ_CHECKSUM, rx_poll := false } :=
  ⟨_, (h.step_eq ((rxbWord_inPaylast s b).2 ⟨hst, hr⟩)).trans (h.takesByte_inTurn.exec_inPaylast hst hr hl),
    ⟨h.running, .inl rfl, rfl, rfl⟩, rfl⟩

end Reads

/-- s after START, the address a and the length byte l: READ_PAYLOAD, the whole payload still expected. -/
def State.afterHeader (s : State) (a l : Byte) (rest : List Byte) (ms : List Move) : State :=
  { s with
    link_in := rest, agenda := ms, w_ans := .ok, held := false, rx_poll := false, rx_st := RxSt.READ_PAYLOAD
    rx_addr := a, rx_len := l, rx_rem := l, rx_crc := crcRaw s.cfg.algo [a, l] }

/-- s after the payload bytes q, the last ones of its frame: READ_CHECKSUM. -/
def State.afterPayload (s : State) (q rest : List Byte) (ms : List Move) : State :=
  { s with
    link_in := rest, agenda := ms, w_ans := .ok, held := false, rx_poll := false, rx_st := RxSt.READ_CHECKSUM
    rx_rem := 0, rx_crc := crcFold s.cfg.algo s.rx_crc q
    rx_buf := s.rx_buf.writeFrom (s.rx_len.toNat - q.length) q }

/-- s after the checksum byte of the frame it holds: the payload is delivered, or its address reported. -/
def State.afterChecksum (s : State) (rest : List Byte) (ms : List Move) : State :=
  { s with
    link_in := rest, agenda := ms, w_ans := .ok, held := false, rx_poll := true, rx_st := RxSt.AWAIT_START
    sin := if s.rx_addr.toNat < s.cfg.n then
        s.sin.set s.rx_addr.toNat (s.sin.get s.rx_addr.toNat ++ s.rxPayload)
      else s.sin
    log := if s.rx_addr.toNat < s.cfg.n then s.log else s.log ++ [.unroutableAddress s.rx_addr s.rx_len] }

/-- The three header bytes of a frame (40_frame_codec.md R83, R84, R86). -/
theorem run_header {s : State} {a l : Byte} {input rest : List Byte} {ms : List Move}
    (h : RxReads s (0xAA :: a :: l :: input) rest ms) (hst : s.rx_st = RxSt.AWAIT_START) (hl : l ≠ 0x00) :
    ∃ t, run 3 s = .next t ∧ RxReads t input rest ms ∧
      t = s.afterHeader a l (input ++ rest) (rxTurns input.length ++ ms) := by
  obtain ⟨t₁, hs₁, h₁, rfl⟩ := h.step_inSof hst rfl
  obtain ⟨t₂, hs₂, h₂, rfl⟩ := h₁.step_inAddr rfl
  obtain ⟨t₃, hs₃, h₃, rfl⟩ := h₂.step_inLen rfl hl
  exact ⟨_, by rw [run_succ 2 hs₁, run_succ 1 hs₂, run_succ 0 hs₃, run_zero], h₃, rfl⟩

/-- The payload bytes of a frame, by induction on those still expected (40_frame_codec.md R87, R88). -/
theorem run_payload {s : State} {b : Byte} {q input rest : List Byte} {ms : List Move}
    (h : RxReads s (b :: q ++ input) rest ms) (hst : s.rx_st = RxSt.READ_PAYLOAD)
    (hr : s.rx_rem.toNat = (b :: q).length) (hl : s.rx_rem.toNat ≤ s.rx_len.toNat) :
    ∃ t, run (b :: q).length s = .next t ∧ RxReads t input rest ms ∧
      t = s.afterPayload (b :: q) (input ++ rest) (rxTurns input.length ++ ms) := by
  induction q generalizing s b with
  | nil =>
    have h1 : s.rx_rem = 1 := BitVec.eq_of_toNat_eq hr
    obtain ⟨t, hs, ht, rfl⟩ := h.step_inPaylast hst h1 (by rw [List.length_singleton] at hr; omega)
    exact ⟨_, run_succ 0 hs, ht, rfl⟩
  | cons c q ih =>
    simp only [List.length_cons] at hr ih ⊢
    obtain ⟨t, hs, ht, rfl⟩ := h.step_inPay hst (by omega) hl
    have hpred : (s.rx_rem - 1).toNat = q.length + 1 := by rw [toNat_sub_one (by omega)]; omega
    obtain ⟨u, hu, hread, rfl⟩ := ih ht hst hpred (show (s.rx_rem - 1).toNat ≤ s.rx_len.toNat by omega)
    refine ⟨_, (run_succ _ hs).trans hu, hread, ?_⟩
    have hi : s.rx_len.toNat - (q.length + 1) = s.rx_len.toNat - (q.length + 1 + 1) + 1 := by omega
    simp [State.afterPayload, Memory.writeFrom, hr, hi]

/-- The checksum byte of a frame whose checksum matches (40_frame_codec.md R90, R91). -/
theorem step_checksum {s : State} {b : Byte} {rest : List Byte} {ms : List Move} (h : RxReads s [b] rest ms)
    (hst : s.rx_st = RxSt.READ_CHECKSUM) (hb : b = crcFinal s.cfg.algo s.rx_crc) :
    step s = .next (s.afterChecksum rest ms) := by
  rcases Nat.lt_or_ge s.rx_addr.toNat s.cfg.n with hn | hn
  · refine ((h.step_eq ((rxbWord_inDeliver s b).2 ⟨hst, hb, hn⟩)).trans
      (h.takesByte_inTurn.exec_inDeliver hst hb hn rfl)).trans ?_
    simp [State.afterChecksum, hn, rxTurns, State.rxPayload]
  · refine ((h.step_eq ((rxbWord_inUnroutable s b).2 ⟨hst, hb, hn⟩)).trans
      (h.takesByte_inTurn.exec_inUnroutable hst hb hn)).trans ?_
    simp [State.afterChecksum, Nat.not_lt.2 hn, rxTurns]

end Sys2Proof.Machine
end

section
/-! SUPPORT. Any list of frames received by a run of RX turns, in wire order (20_memory.md R54): one whole frame by
its three parts, what it leaves in the state, and the induction over the frames. -/

namespace Sys2Proof.Machine

/-! ### One frame -/

/-- s after the frame with address a, length byte l and payload p: header, payload, checksum byte. -/
def State.afterFrame (s : State) (a l : Byte) (p rest : List Byte) (ms : List Move) : State :=
  ((s.afterHeader a l rest ms).afterPayload p rest ms).afterChecksum rest ms

/-- A payload length fits the length byte (40_frame_codec.md R99). -/
theorem lengthByte_toNat {n : Nat} (h : n ≤ 255) : (BitVec.ofNat 8 n).toNat = n := by
  rw [BitVec.toNat_ofNat]; omega

/-- A frame on the wire holds LENGTH + 4 bytes (30_encoding.md R63). -/
theorem wireFrame_length (g : Crc8Algo) (a : Byte) (p : List Byte) : (wireFrame g a p).length = p.length + 4 := by
  simp only [wireFrame, frameOf, Frame.bytes, List.length_append, List.length_cons, List.length_nil]
  omega

/-- A frame that the encoder makes, met in AWAIT_START, is received in as many turns as it has bytes
(40_frame_codec.md R95). -/
theorem run_frame {s : State} {a : Byte} {p rest : List Byte} {ms : List Move}
    (h : RxReads s (wireFrame s.cfg.algo a p) rest ms) (hst : s.rx_st = RxSt.AWAIT_START)
    (hpos : 1 ≤ p.length) (hmax : p.length ≤ 255) :
    run (p.length + 4) s = .next (s.afterFrame a (BitVec.ofNat 8 p.length) p rest ms) := by
  obtain ⟨b, q, rfl⟩ := List.exists_cons_of_length_pos hpos
  have hlen := lengthByte_toNat hmax
  have hne : BitVec.ofNat 8 (b :: q).length ≠ 0x00 := fun h0 => by
    rw [h0] at hlen; exact absurd hlen (by simp)
  obtain ⟨t₁, hrun₁, h₁, rfl⟩ := run_header (input := b :: q ++ [_]) h hst hne
  obtain ⟨t₂, hrun₂, h₂, rfl⟩ := run_payload h₁ rfl hlen (Nat.le_refl _)
  have hcrc := step_checksum h₂ rfl (congrArg (crcFinal s.cfg.algo) (crcRaw_append s.cfg.algo [a, _] (b :: q)))
  rw [show (b :: q).length + 4 = 3 + ((b :: q).length + 1) by omega, run_add _ hrun₁, run_add _ hrun₂,
    run_succ 0 hcrc]
  rfl

/-- The buffer holds the payload of the frame just received (40_frame_codec.md R90). -/
theorem afterPayload_rxPayload {s : State} {p rest : List Byte} {ms : List Move} (hb : s.rx_buf.wf)
    (hl : s.rx_len.toNat = p.length) : (s.afterPayload p rest ms).rxPayload = p := by
  have h := Memory.upTo_writeFrom (q := p) hb
  simpa [State.rxPayload, State.afterPayload, hl] using h

section AfterFrame

variable {s : State} {a l : Byte} {p rest : List Byte} {ms : List Move}

theorem afterFrame_rx_buf_wf (hb : s.rx_buf.wf) : (s.afterFrame a l p rest ms).rx_buf.wf := Memory.writeFrom_wf hb

/-- A routable frame adds its payload to its endpoint's queue, an unroutable one changes no queue. -/
theorem afterFrame_sin (hb : s.rx_buf.wf) (hl : l.toNat = p.length) :
    (s.afterFrame a l p rest ms).sin =
      if a.toNat < s.cfg.n then s.sin.set a.toNat (s.sin.get a.toNat ++ p) else s.sin := by
  have hp : ((s.afterHeader a l rest ms).afterPayload p rest ms).rxPayload = p := afterPayload_rxPayload hb hl
  rw [State.afterFrame, State.afterChecksum, hp]
  rfl

theorem afterFrame_sin_wf (hb : s.rx_buf.wf) (hs : s.sin.wf) (hl : l.toNat = p.length) :
    (s.afterFrame a l p rest ms).sin.wf := by
  rw [afterFrame_sin hb hl]
  split
  · exact Streams.set_wf hs
  · exact hs

theorem afterFrame_sin_get (hb : s.rx_buf.wf) (hs : s.sin.wf) (hl : l.toNat = p.length) (c : Nat) :
    (s.afterFrame a l p rest ms).sin.get c =
      s.sin.get c ++ if c < s.cfg.n ∧ a.toNat = c then p else [] := by
  rw [afterFrame_sin hb hl]
  by_cases hc : a.toNat = c
  · subst hc
    split <;> simp_all [Streams.get_set_same hs]
  · split <;> simp [hc, Streams.get_set_other hs (Ne.symm hc)]

theorem afterFrame_log : (s.afterFrame a l p rest ms).log =
    s.log ++ if s.cfg.n ≤ a.toNat then [.unroutableAddress a l] else [] := by
  rcases Nat.lt_or_ge a.toNat s.cfg.n with hn | hn
  · rw [if_neg (Nat.not_le.2 hn), List.append_nil]
    exact if_pos hn
  · rw [if_pos hn]
    exact if_neg (Nat.not_lt.2 hn)

end AfterFrame

/-! ### Frames in wire order -/

/-- The bytes of the frames on the link, one frame after the other. -/
def wireFrames (g : Crc8Algo) (frames : List (Byte × List Byte)) : List Byte :=
  (frames.map (fun f => wireFrame g f.1 f.2)).flatten

/-- The payloads addressed to endpoint c, concatenated in wire order. -/
def payloadsTo (c : Nat) (frames : List (Byte × List Byte)) : List Byte :=
  ((frames.filter (fun f => f.1.toNat == c)).map (fun f => f.2)).flatten

/-- The records of the frames whose address is n or above, in wire order. -/
def unroutableRecords (n : Nat) (frames : List (Byte × List Byte)) : List Event :=
  (frames.filter (fun f => n ≤ f.1.toNat)).map (fun f => .unroutableAddress f.1 (BitVec.ofNat 8 f.2.length))

theorem payloadsTo_cons (c : Nat) (f : Byte × List Byte) (fs : List (Byte × List Byte)) :
    payloadsTo c (f :: fs) = (if f.1.toNat = c then f.2 else []) ++ payloadsTo c fs := by
  by_cases h : f.1.toNat = c <;> simp [payloadsTo, h]

theorem unroutableRecords_cons (n : Nat) (f : Byte × List Byte) (fs : List (Byte × List Byte)) :
    unroutableRecords n (f :: fs) =
      (if n ≤ f.1.toNat then [.unroutableAddress f.1 (BitVec.ofNat 8 f.2.length)] else []) ++
        unroutableRecords n fs := by
  by_cases h : n ≤ f.1.toNat <;> simp [unroutableRecords, h]

/-- t is what s becomes when RX has received the frames: RX at the top of its loop, each endpoint's payloads appended
to its queue, and one record for each unroutable frame. -/
structure FramesReceived (s t : State) (frames : List (Byte × List Byte)) (tail : List Byte) (ms : List Move) :
    Prop where
  running : t.rx_mode = Mode.RUNNING
  await : t.rx_st = RxSt.AWAIT_START
  link : t.link_in = tail
  agenda : t.agenda = ms
  delivered : ∀ c, c < s.cfg.n → t.sin.get c = s.sin.get c ++ payloadsTo c frames
  untouched : ∀ c, s.cfg.n ≤ c → t.sin.get c = s.sin.get c
  logged : t.log = s.log ++ unroutableRecords s.cfg.n frames

/-- The first frame, then the others. -/
theorem FramesReceived.cons {s t : State} {f : Byte × List Byte} {fs : List (Byte × List Byte)}
    {rest tail : List Byte} {ms' ms : List Move} (hb : s.rx_buf.wf) (hs : s.sin.wf) (hmax : f.2.length ≤ 255)
    (h : FramesReceived (s.afterFrame f.1 (BitVec.ofNat 8 f.2.length) f.2 rest ms') t fs tail ms) :
    FramesReceived s t (f :: fs) tail ms where
  running := h.running
  await := h.await
  link := h.link
  agenda := h.agenda
  delivered c hc := by
    rw [h.delivered c hc, afterFrame_sin_get hb hs (lengthByte_toNat hmax), payloadsTo_cons, List.append_assoc]
    simp only [hc, true_and]
  untouched c hc := by
    rw [h.untouched c hc, afterFrame_sin_get hb hs (lengthByte_toNat hmax), if_neg (by omega), List.append_nil]
  logged := by
    rw [h.logged, afterFrame_log, unroutableRecords_cons, List.append_assoc]
    rfl

/-- Frames that follow each other are received one by one: induction on the frames (20_memory.md R54). -/
theorem run_frames {s : State} {frames : List (Byte × List Byte)} {tail : List Byte} {ms : List Move}
    (hrun : s.rx_mode = Mode.RUNNING) (hst : s.rx_st = RxSt.AWAIT_START) (hstop : s.stop = false)
    (hb : s.rx_buf.wf) (hs : s.sin.wf) (hlen : ∀ f ∈ frames, 1 ≤ f.2.length ∧ f.2.length ≤ 255)
    (hlink : s.link_in = wireFrames s.cfg.algo frames ++ tail)
    (hturns : s.agenda = rxTurns (frames.map (fun f => f.2.length + 4)).sum ++ ms) :
    ∃ t, run (frames.map (fun f => f.2.length + 4)).sum s = .next t ∧ FramesReceived s t frames tail ms := by
  induction frames generalizing s with
  | nil =>
    exact ⟨s, rfl, hrun, hst, hlink, hturns, fun _ _ => (List.append_nil _).symm, fun _ _ => rfl,
      (List.append_nil _).symm⟩
  | cons f fs ih =>
    obtain ⟨⟨hpos, hmax⟩, hlen⟩ := List.forall_mem_cons.1 hlen
    rw [List.map_cons, List.sum_cons] at hturns ⊢
    have hread : RxReads s (wireFrame s.cfg.algo f.1 f.2) (wireFrames s.cfg.algo fs ++ tail)
        (rxTurns (fs.map (fun f => f.2.length + 4)).sum ++ ms) :=
      { running := hrun
        sampled := .inr hstop
        link := by rw [hlink, wireFrames, List.map_cons, List.flatten_cons, List.append_assoc]; rfl
        turns := by rw [hturns, wireFrame_length, rxTurns_add, List.append_assoc] }
    obtain ⟨t, ht, hrec⟩ := ih (s := s.afterFrame f.1 (BitVec.ofNat 8 f.2.length) f.2
      (wireFrames s.cfg.algo fs ++ tail) _) hrun rfl hstop (afterFrame_rx_buf_wf hb)
      (afterFrame_sin_wf hb hs (lengthByte_toNat hmax)) hlen rfl rfl
    exact ⟨t, (run_add _ (run_frame hread hst hpos hmax)).trans ht, hrec.cons hb hs hmax⟩

/-- Settles O39: `run_frames`, with the lists it names written out. -/
theorem framesAreDeliveredInWireOrder : Obligations.FramesAreDeliveredInWireOrder := by
  unfold Obligations.FramesAreDeliveredInWireOrder
  intro s frames tail ms hrun hst hstop hb hs hlen hlink hturns
  obtain ⟨t, ht, h⟩ := run_frames hrun hst hstop hb hs hlen hlink hturns
  exact ⟨t, ht, h.running, h.await, h.link, h.agenda, h.delivered, h.untouched, h.logged⟩

end Sys2Proof.Machine
end

section
/-! SUPPORT. The two directions do not interfere (20_memory.md R57, 10_state.md R15): a step of RX is a function of
RX's half of the state, and so is a step of TX of TX's. -/

namespace Sys2Proof.Machine

/-- r with its next state changed by g. -/
def mapNext (g : State → State) : Result → Result
  | .next t => .next (g t)
  | .fault f => .fault f
  | .refused r => .refused r

@[simp] theorem mapNext_next (g : State → State) (t : State) : mapNext g (.next t) = .next (g t) := rfl

theorem mapNext_ite (c : Prop) [Decidable c] (g : State → State) (x y : Result) :
    mapNext g (if c then x else y) = if c then mapNext g x else mapNext g y := by
  split <;> rfl

theorem mapNext_eq_next {g : State → State} {r : Result} {u : State} (h : mapNext g r = .next u) :
    ∃ w, r = .next w ∧ u = g w := by
  cases r with
  | next w => exact ⟨w, rfl, next_inj h⟩
  | fault f => cases h
  | refused f => cases h

theorem ctlStep_mapNext (e : Bool) (g : State → State) (y : State) :
    ctlStep e (g y) = mapNext g (ctlStep e y) := by
  cases e <;> rfl

/-- s with an empty log: what a step appends to it is all that the step logs. -/
def State.unlogged (s : State) : State := { s with log := [] }

/-! ### RX on any TX -/

/-- t with RX's half of x: its registers, `link_in`, `sin`, the answer to its StreamWrite, and its records after
those of t. -/
def State.withRxOf (t x : State) : State :=
  { t with
    rx_mode := x.rx_mode, rx_st := x.rx_st, rx_poll := x.rx_poll, rx_addr := x.rx_addr, rx_len := x.rx_len
    rx_rem := x.rx_rem, rx_crc := x.rx_crc, rx_buf := x.rx_buf, link_in := x.link_in, sin := x.sin
    w_ans := x.w_ans, log := t.log ++ x.log }

section Rx

variable {t x : State}

theorem rxbWord_withRxOf (hc : x.cfg = t.cfg) (b : Byte) : (t.withRxOf x).rxbWord b = x.rxbWord b := by
  simp only [State.rxbWord, State.condRxL, State.condC, State.condR, hc]
  rfl

theorem rxbEnabled_withRxOf (hs : x.stop = t.stop) : (t.withRxOf x).rxbEnabled = x.rxbEnabled := by
  simp only [State.rxbEnabled, hs]
  rfl

theorem rxHaltEnabled_withRxOf (hs : x.stop = t.stop) : (t.withRxOf x).rxHaltEnabled = x.rxHaltEnabled := by
  simp only [State.rxHaltEnabled, hs]
  rfl

theorem raise_withRxOf (e : Event) : (t.withRxOf x).raise e = t.withRxOf (x.raise e) := by
  simp [State.withRxOf, State.raise]

theorem routeInbound_withRxOf (a : Byte) (p : List Byte) :
    (t.withRxOf x).routeInbound a p = t.withRxOf (x.routeInbound a p) := by
  cases hw : x.w_ans with
  | ok =>
    rw [routeInbound_ok hw, routeInbound_ok (s := t.withRxOf x) hw]
    rfl
  | fault k =>
    rw [routeInbound_fault hw, routeInbound_fault (s := t.withRxOf x) hw, ← raise_withRxOf]
    rfl

theorem rxbStep_withRxOf {i : Instr} {f : Byte → State → Result} (hc : x.cfg = t.cfg) (hs : x.stop = t.stop)
    (hf : ∀ b (y : State), y.cfg = t.cfg → f b (t.withRxOf y) = mapNext t.withRxOf (f b y)) :
    rxbStep i (t.withRxOf x) f = mapNext t.withRxOf (rxbStep i x f) := by
  have hlink : (t.withRxOf x).link_in = x.link_in := rfl
  cases hl : x.link_in with
  | nil => simp [rxbStep, hlink, hl, mapNext]
  | cons b rest =>
    simp only [rxbStep, hlink, hl, rxbEnabled_withRxOf hs, rxbWord_withRxOf hc, mapNext_ite]
    rw [← hf b { x with link_in := rest } hc]
    rfl

/-- A step of RX does the same to RX's half of the state whatever the rest holds. -/
theorem exec_withRxOf {i : Instr} (hi : i.ofRx = true) (hc : x.cfg = t.cfg) (hs : x.stop = t.stop) :
    exec i (t.withRxOf x) = mapNext t.withRxOf (exec i x) := by
  cases i with
  | inDrop =>
    simp only [exec, execInDrop]
    exact rxbStep_withRxOf hc hs fun _ _ _ => rfl
  | inSof =>
    simp only [exec, execInSof]
    exact rxbStep_withRxOf hc hs fun _ _ hy => by simp [State.withRxOf, hy]
  | inAddr =>
    simp only [exec, execInAddr]
    exact rxbStep_withRxOf hc hs fun _ _ hy => by simp [State.withRxOf, hy]
  | inLen0 =>
    simp only [exec, execInLen0]
    exact rxbStep_withRxOf hc hs fun _ _ _ => by rw [raise_withRxOf]; rfl
  | inLen =>
    simp only [exec, execInLen]
    exact rxbStep_withRxOf hc hs fun _ _ hy => by simp [State.withRxOf, hy]
  | inPay =>
    simp only [exec, execInPay]
    refine rxbStep_withRxOf hc hs fun b y hy => ?_
    simp only [State.withRxOf, hy]
    cases payloadIndex y.rx_len y.rx_rem <;> rfl
  | inPaylast =>
    simp only [exec, execInPaylast]
    refine rxbStep_withRxOf hc hs fun b y hy => ?_
    simp only [State.withRxOf, hy]
    cases payloadIndex y.rx_len y.rx_rem <;> rfl
  | inCrcbad =>
    simp only [exec, execInCrcbad]
    refine rxbStep_withRxOf hc hs fun b y hy => ?_
    rw [raise_withRxOf, hy]
    rfl
  | inDeliver =>
    simp only [exec, execInDeliver]
    exact rxbStep_withRxOf hc hs fun _ _ _ => by rw [routeInbound_withRxOf]; rfl
  | inUnroutable =>
    simp only [exec, execInUnroutable]
    exact rxbStep_withRxOf hc hs fun _ _ _ => by rw [raise_withRxOf]; rfl
  | rxIncomplete => exact ctlStep_mapNext x.rxIncompleteEnabled t.withRxOf { x with rx_poll := true }
  | rxHalt =>
    simp only [exec, execRxHalt, rxHaltEnabled_withRxOf hs]
    exact ctlStep_mapNext x.rxHaltEnabled t.withRxOf { x with rx_mode := Mode.STOPPED }
  | _ => cases hi

/-- RX's half of s, put into a t that agrees with s on it, is t with no record added. -/
theorem RxAgree.withRxOf_eq {s : State} (h : RxAgree s t) (hw : s.w_ans = t.w_ans) :
    t.withRxOf s.unlogged = t := by
  simp only [State.withRxOf, State.unlogged, h.rx_mode, h.rx_st, h.rx_poll, h.rx_addr, h.rx_len, h.rx_rem,
    h.rx_crc, h.rx_buf, h.link_in, h.sin, hw, List.append_nil]

/-- A step of RX takes two states that agree on RX's half to two that agree on it again, appends the same records in
both, and leaves TX's half alone. -/
theorem exec_rx_independent {s u : State} {i : Instr} (hi : i.ofRx = true) (h : RxAgree s t) (hw : s.w_ans = t.w_ans)
    (hx : exec i s = .next u) :
    ∃ v es, exec i t = .next v ∧ RxAgree u v ∧ TxAgree t v ∧ u.log = s.log ++ es ∧ v.log = t.log ++ es := by
  have hs : s.withRxOf s.unlogged = s := RxAgree.withRxOf_eq (by constructor <;> rfl) rfl
  rw [← hs, exec_withRxOf (t := s) (x := s.unlogged) hi rfl rfl] at hx
  obtain ⟨w, hw', rfl⟩ := mapNext_eq_next hx
  have hv : exec i t = .next (t.withRxOf w) := by
    conv_lhs => rw [← h.withRxOf_eq hw]
    rw [exec_withRxOf (x := s.unlogged) hi h.cfg h.stop, hw', mapNext_next]
  exact ⟨t.withRxOf w, w.log, hv, ⟨h.cfg, h.stop, rfl, rfl, rfl, rfl, rfl, rfl, rfl, rfl, rfl, rfl⟩,
    by constructor <;> rfl, rfl, rfl⟩

/-- A step of RX writes nothing of TX's half, nor `stop` or the configuration. -/
theorem exec_rx_keeps_tx {s u : State} {i : Instr} (hi : i.ofRx = true) (hx : exec i s = .next u) : TxAgree s u := by
  obtain ⟨v, _, hv, -, h, -⟩ := exec_rx_independent hi (t := s) (by constructor <;> rfl) rfl hx
  rwa [next_inj (hx.symm.trans hv)] at h

end Rx

/-! ### TX on any RX -/

/-- t with TX's half of x: its registers, `link_out`, `sout`, the preference and answer of its StreamRead, and its
records after those of t. -/
def State.withTxOf (t x : State) : State :=
  { t with
    tx_mode := x.tx_mode, tx_st := x.tx_st, tx_addr := x.tx_addr, tx_len := x.tx_len, tx_rem := x.tx_rem
    tx_crc := x.tx_crc, tx_buf := x.tx_buf, link_out := x.link_out, sout := x.sout
    r_ans := x.r_ans, pick := x.pick, log := t.log ++ x.log }

section Tx

variable {t x : State}

theorem fetchEndpoint_withTxOf (hc : x.cfg = t.cfg) : (t.withTxOf x).fetchEndpoint = x.fetchEndpoint := by
  have hready : (t.withTxOf x).ready = x.ready := by
    funext a
    simp only [State.ready, hc]
    rfl
  simp only [State.fetchEndpoint, hready, hc]
  rfl

theorem fetchEnabled_withTxOf (hc : x.cfg = t.cfg) (hs : x.stop = t.stop) :
    (t.withTxOf x).fetchEnabled = x.fetchEnabled := by
  simp only [State.fetchEnabled, fetchEndpoint_withTxOf hc, hs]
  rfl

theorem txHaltEnabled_withTxOf (hs : x.stop = t.stop) : (t.withTxOf x).txHaltEnabled = x.txHaltEnabled := by
  simp only [State.txHaltEnabled, hs]
  rfl

theorem raise_withTxOf (e : Event) : (t.withTxOf x).raise e = t.withTxOf (x.raise e) := by
  simp [State.withTxOf, State.raise]

theorem fetchStep_withTxOf {i : Instr} {f g : Nat → Result} (hc : x.cfg = t.cfg) (hs : x.stop = t.stop)
    (hf : ∀ a, g a = mapNext t.withTxOf (f a)) :
    fetchStep i (t.withTxOf x) g = mapNext t.withTxOf (fetchStep i x f) := by
  have hword : (t.withTxOf x).txbWord = x.txbWord := rfl
  simp only [fetchStep, fetchEndpoint_withTxOf hc, fetchEnabled_withTxOf hc hs, hword, hf]
  cases x.fetchEndpoint with
  | none => rfl
  | some a => simp only [mapNext_ite]; rfl

theorem txbStep_withTxOf {i : Instr} {r r' : Result} (hr : r' = mapNext t.withTxOf r) :
    txbStep i (t.withTxOf x) r' = mapNext t.withTxOf (txbStep i x r) := by
  simp only [txbStep, hr, mapNext_ite]
  rfl

/-- A step of TX does the same to TX's half of the state whatever the rest holds. -/
theorem exec_withTxOf {i : Instr} (hi : i.ofTx = true) (hc : x.cfg = t.cfg) (hs : x.stop = t.stop) :
    exec i (t.withTxOf x) = mapNext t.withTxOf (exec i x) := by
  have hcfg : (t.withTxOf x).cfg = x.cfg := hc.symm
  cases i with
  | outFetch =>
    simp only [exec, execOutFetch, hcfg]
    exact fetchStep_withTxOf hc hs fun _ => rfl
  | outSfault =>
    simp only [exec, execOutSfault]
    exact fetchStep_withTxOf hc hs fun a =>
      congrArg Host.Outcome.next (raise_withTxOf (t := t) (x := x.dropSout a (x.lostBytes a)) _)
  | outStart =>
    simp only [exec, execOutStart]
    exact txbStep_withTxOf rfl
  | outAddr =>
    simp only [exec, execOutAddr, hcfg]
    exact txbStep_withTxOf rfl
  | outLen =>
    simp only [exec, execOutLen, hcfg]
    exact txbStep_withTxOf rfl
  | outPay =>
    simp only [exec, execOutPay, hcfg]
    refine txbStep_withTxOf ?_
    simp only [State.withTxOf]
    cases payloadIndex x.tx_len x.tx_rem <;> rfl
  | outPaylast =>
    simp only [exec, execOutPaylast, hcfg]
    refine txbStep_withTxOf ?_
    simp only [State.withTxOf]
    cases payloadIndex x.tx_len x.tx_rem <;> rfl
  | outCrc =>
    simp only [exec, execOutCrc, hcfg]
    exact txbStep_withTxOf rfl
  | txHalt =>
    simp only [exec, execTxHalt, txHaltEnabled_withTxOf hs]
    exact ctlStep_mapNext x.txHaltEnabled t.withTxOf { x with tx_mode := Mode.STOPPED }
  | _ => cases hi

/-- TX's half of s, put into a t that agrees with s on it, is t with no record added. -/
theorem TxAgree.withTxOf_eq {s : State} (h : TxAgree s t) (hp : s.pick = t.pick) (hr : s.r_ans = t.r_ans) :
    t.withTxOf s.unlogged = t := by
  simp only [State.withTxOf, State.unlogged, h.tx_mode, h.tx_st, h.tx_addr, h.tx_len, h.tx_rem, h.tx_crc,
    h.tx_buf, h.link_out, h.sout, hp, hr, List.append_nil]

/-- A step of TX takes two states that agree on TX's half to two that agree on it again, appends the same records in
both, and leaves RX's half alone. -/
theorem exec_tx_independent {s u : State} {i : Instr} (hi : i.ofTx = true) (h : TxAgree s t) (hp : s.pick = t.pick)
    (hr : s.r_ans = t.r_ans) (hx : exec i s = .next u) :
    ∃ v es, exec i t = .next v ∧ TxAgree u v ∧ RxAgree t v ∧ u.log = s.log ++ es ∧ v.log = t.log ++ es := by
  have hs : s.withTxOf s.unlogged = s := TxAgree.withTxOf_eq (by constructor <;> rfl) rfl rfl
  rw [← hs, exec_withTxOf (t := s) (x := s.unlogged) hi rfl rfl] at hx
  obtain ⟨w, hw, rfl⟩ := mapNext_eq_next hx
  have hv : exec i t = .next (t.withTxOf w) := by
    conv_lhs => rw [← h.withTxOf_eq hp hr]
    rw [exec_withTxOf (x := s.unlogged) hi h.cfg h.stop, hw, mapNext_next]
  exact ⟨t.withTxOf w, w.log, hv, ⟨h.cfg, h.stop, rfl, rfl, rfl, rfl, rfl, rfl, rfl, rfl, rfl⟩,
    by constructor <;> rfl, rfl, rfl⟩

/-- A step of TX writes nothing of RX's half, nor `stop` or the configuration. -/
theorem exec_tx_keeps_rx {s u : State} {i : Instr} (hi : i.ofTx = true) (hx : exec i s = .next u) : RxAgree s u := by
  obtain ⟨v, _, hv, -, h, -⟩ := exec_tx_independent hi (t := s) (by constructor <;> rfl) rfl rfl hx
  rwa [next_inj (hx.symm.trans hv)] at h

end Tx

/-! ### Turns -/

/-- RX selects by its own half of the state. -/
theorem RxAgree.rxSelect_eq {s t : State} (h : RxAgree s t) (hw : s.w_ans = t.w_ans) : t.rxSelect = s.rxSelect := by
  rw [← h.withRxOf_eq hw]
  simp only [State.rxSelect, rxHaltEnabled_withRxOf (x := s.unlogged) h.stop,
    rxbEnabled_withRxOf (x := s.unlogged) h.stop, rxbWord_withRxOf (x := s.unlogged) h.cfg]
  rfl

/-- TX selects by its own half of the state. -/
theorem TxAgree.txSelect_eq {s t : State} (h : TxAgree s t) (hp : s.pick = t.pick) (hr : s.r_ans = t.r_ans) :
    t.txSelect = s.txSelect := by
  rw [← h.withTxOf_eq hp hr]
  simp only [State.txSelect, txHaltEnabled_withTxOf (x := s.unlogged) h.stop,
    fetchEnabled_withTxOf (x := s.unlogged) h.cfg h.stop]
  rfl

/-- A turn of RX in which RX waits. -/
theorem step_rx_waits {s : State} {ans : WriteAnswer} {ms : List Move} (ha : s.agenda = .rx ans :: ms)
    (hm : s.rx_mode ≠ Mode.UNUSED) (hn : s.rxSelect = none) :
    step s = .next { s with agenda := ms, w_ans := ans } := by
  have hs : ({ s with agenda := ms } : State).rxSelect = none := hn
  rw [step_cons ha, takeMove, rxTurn, if_neg (by simpa using hm), hs, runSelected]

/-- A turn of TX in which TX waits. -/
theorem step_tx_waits {s : State} {p : Nat} {ans : ReadAnswer} {ms : List Move} (ha : s.agenda = .tx p ans :: ms)
    (hm : s.tx_mode ≠ Mode.UNUSED)
    (hn : ({ s with agenda := ms, pick := p, r_ans := ans } : State).txSelect = none) :
    step s = .next { s with agenda := ms, pick := p, r_ans := ans } := by
  rw [step_cons ha, takeMove, txTurn, if_neg (by simpa using hm)]
  simp only [hn, runSelected]

/-- A turn of RX, with its step or waiting, on two states that agree on RX's half (20_memory.md R57). -/
theorem rx_turn_independent {s t u : State} {ans : WriteAnswer} {ms ns : List Move} (h : RxAgree s t)
    (hs : s.agenda = .rx ans :: ms) (ht : t.agenda = .rx ans :: ns) (hstep : step s = .next u) :
    ∃ v es, step t = .next v ∧ RxAgree u v ∧ TxAgree t v ∧ u.log = s.log ++ es ∧ v.log = t.log ++ es := by
  have hturn : RxAgree { s with agenda := ms, w_ans := ans, held := false }
      { t with agenda := ns, w_ans := ans, held := false } := { h with }
  have hselect : t.rxSelect = s.rxSelect := hturn.rxSelect_eq rfl
  rw [step_cons hs] at hstep
  cases takeMove_effect hstep with
  | rxStep _ i htakes hx =>
    have hkind := rxTakes_kind htakes
    obtain ⟨w, hw, hd⟩ := htakes
    rcases hkind with hi | rfl | rfl
    · rw [step_rx_takes ht ⟨w, hselect.trans hw, hd⟩]
      obtain ⟨v, es, hv, huv, htv, hlog⟩ := exec_rx_independent hi hturn rfl hx
      exact ⟨v, es, hv, huv, { htv with }, hlog⟩
    · exact absurd hx exec_reserved_not_next.1
    · exact absurd hx exec_reserved_not_next.2.1
  | rxWait _ hm hn hu =>
    subst hu
    exact ⟨_, [], step_rx_waits ht (h.rx_mode ▸ hm) (hselect.trans hn), { h with }, by constructor <;> rfl,
      (List.append_nil _).symm, (List.append_nil _).symm⟩

/-- A turn of TX, with its step or waiting, on two states that agree on TX's half (20_memory.md R57). -/
theorem tx_turn_independent {s t u : State} {p : Nat} {ans : ReadAnswer} {ms ns : List Move} (h : TxAgree s t)
    (hs : s.agenda = .tx p ans :: ms) (ht : t.agenda = .tx p ans :: ns) (hstep : step s = .next u) :
    ∃ v es, step t = .next v ∧ TxAgree u v ∧ RxAgree t v ∧ u.log = s.log ++ es ∧ v.log = t.log ++ es := by
  have hturn : TxAgree { s with agenda := ms, pick := p, r_ans := ans, held := false }
      { t with agenda := ns, pick := p, r_ans := ans, held := false } := { h with }
  have hselect := hturn.txSelect_eq rfl rfl
  rw [step_cons hs] at hstep
  cases takeMove_effect hstep with
  | txStep _ _ i htakes hx =>
    have hkind := txTakes_kind htakes
    obtain ⟨w, hw, hd⟩ := htakes
    rcases hkind with hi | rfl
    · rw [step_tx_takes ht ⟨w, hselect.trans hw, hd⟩]
      obtain ⟨v, es, hv, huv, htv, hlog⟩ := exec_tx_independent hi hturn rfl rfl hx
      exact ⟨v, es, hv, huv, { htv with }, hlog⟩
    · exact absurd hx exec_reserved_not_next.2.2
  | txWait _ _ hm hn hu =>
    subst hu
    exact ⟨_, [], step_tx_waits ht (h.tx_mode ▸ hm) (hselect.trans hn), { h with }, by constructor <;> rfl,
      (List.append_nil _).symm, (List.append_nil _).symm⟩

/-- Settles O56: a turn of RX reads and writes RX's half of the state alone, and a turn of TX TX's. -/
theorem directionsAreIndependent : Obligations.DirectionsAreIndependent := by
  unfold Obligations.DirectionsAreIndependent
  exact ⟨fun _ _ _ _ _ _ h hs ht hstep => rx_turn_independent h hs ht hstep,
    fun _ _ _ _ _ _ _ h hs ht hstep => tx_turn_independent h hs ht hstep⟩

end Sys2Proof.Machine
end

section
/-! SUPPORT. The stop request (10_state.md R18, 20_memory.md R58): what each instruction and each move does to
`stop`. -/

namespace Sys2Proof.Machine

/-- An instruction is a step of RX, a step of TX, one of the host's, or a reserved row. -/
theorem instr_kinds (i : Instr) :
    i.ofRx = true ∨ i.ofTx = true ∨ i ∈ [.reset, .setStop, .rxLinkFault, .txLinkFault] ∨
      i ∈ [.rxReservedSt5, .rxReservedSt67, .txReserved] := by
  cases i <;> decide

/-- No instruction but RESET clears `stop` (10_state.md R18). -/
theorem exec_keeps_stop {i : Instr} {s t : State} (hi : i ≠ .reset) (hx : exec i s = .next t)
    (hs : s.stop = true) : t.stop = true := by
  rcases instr_kinds i with hrx | htx | hhost | hres
  · exact (exec_rx_keeps_tx hrx hx).stop ▸ hs
  · exact (exec_tx_keeps_rx htx hx).stop ▸ hs
  · fin_cases hhost
    · exact absurd rfl hi
    · rw [exec_setStop_next hx]
    · rwa [(exec_rxLinkFault_next hx).2, State.linkFault_rx_stop]
    · rwa [(exec_txLinkFault_next hx).2, State.linkFault_tx_stop]
  · fin_cases hres
    · exact absurd hx exec_reserved_not_next.1
    · exact absurd hx exec_reserved_not_next.2.1
    · exact absurd hx exec_reserved_not_next.2.2

/-- No move but the code of RESET clears `stop`. -/
theorem MoveEffect.keeps_stop {m : Move} {s t : State} (h : MoveEffect s t m) (hm : m ≠ .ctl 0x0)
    (hs : s.stop = true) : t.stop = true := by
  cases h with
  | rxStep _ i htakes hx =>
    have hi : i ≠ .reset := fun hi => absurd (rxTakes_kind (hi ▸ htakes)) (by decide)
    exact exec_keeps_stop hi hx hs
  | txStep _ _ i htakes hx =>
    have hi : i ≠ .reset := fun hi => absurd (txTakes_kind (hi ▸ htakes)) (by decide)
    exact exec_keeps_stop hi hx hs
  | ctlStep k i hd _ hx =>
    have hi : i ≠ .reset := fun hi => hm (congrArg Move.ctl (decodeCtl_reset (hi ▸ hd)))
    exact exec_keeps_stop hi hx hs
  | closeRunning _ hx => exact exec_keeps_stop (by decide) hx hs
  | rxWait _ _ _ h | txWait _ _ _ _ h | ctlIdle _ h | appendLinkIn _ h | drainLinkOut _ h | appendSout _ _ _ h
  | readModes h | configure _ _ _ h | closeEnded _ h | releaseEndpoints h => rw [h]; exact hs

/-- Settles O51: RESET is the one instruction that clears `stop`, and no other move writes it. -/
theorem stopIsClearedOnlyByReset : Obligations.StopIsClearedOnlyByReset := by
  unfold Obligations.StopIsClearedOnlyByReset
  intro s t hstep hs ht
  by_contra hreset
  obtain ⟨ms, n, hnext⟩ := nextMove_same s
  have hkept : t.stop = true := (step_effect hstep).keeps_stop hreset (by rw [hnext]; exact hs)
  rw [ht] at hkept
  exact Bool.false_ne_true hkept

end Sys2Proof.Machine
end

section
/-! SUPPORT. The reserved state codes (30_encoding.md R76, 40_frame_codec.md R92, 44_outbound_writer.md R144): the
words of a row, the step an agent takes in a reserved state, and the invariant that excludes it. -/

namespace Sys2Proof.Machine

/-! ### The words of a row -/

/-- An RXB word decodes as a selector exactly as its map says (30_encoding.md R73). -/
theorem decode_rxb_eq_ok_iff {w : RxbWord} {i : Instr} : decode (.rxb w) = .ok i ↔ decodeRxb w = some i := by
  cases h : decodeRxb w <;> simp [decode, h]

/-- A TXB word decodes as a selector exactly as its map says (30_encoding.md R74). -/
theorem decode_txb_eq_ok_iff {w : TxbWord} {i : Instr} : decode (.txb w) = .ok i ↔ decodeTxb w = some i := by
  cases h : decodeTxb w <;> simp [decode, h]

/-- The words of an RXB row are those of its pattern under its mask: no earlier row of the map takes one of
them. -/
theorem rxbRowIs_of_mem {r : OpRow 8} (hr : r ∈ rxbRows) : rxbRowIs r.instr r.pattern r.mask := by
  have table : ∀ r ∈ rxbRows, ∀ w, decodeRxb w = some r.instr ↔ w &&& r.mask = r.pattern := by decide
  exact fun w => decode_rxb_eq_ok_iff.trans (table r hr w)

/-- The words of a TXB row are those of its pattern under its mask. -/
theorem txbRowIs_of_mem {r : OpRow 5} (hr : r ∈ txbRows) : txbRowIs r.instr r.pattern r.mask := by
  have table : ∀ r ∈ txbRows, ∀ w, decodeTxb w = some r.instr ↔ w &&& r.mask = r.pattern := by decide
  exact fun w => decode_txb_eq_ok_iff.trans (table r hr w)

/-! ### A turn in a reserved state -/

/-- A byte met in state code 5, 6 or 7 forms the word of a reserved row (log 17). -/
theorem TakesByte.takes_reserved {s : State} {b : Byte} {rest : List Byte} (h : TakesByte s b rest)
    (hst : 5 ≤ s.rx_st.toNat) : s.rxTakes .rxReservedSt5 ∨ s.rxTakes .rxReservedSt67 := by
  rcases Nat.eq_or_lt_of_le hst with h5 | h67
  · exact .inl (h.takes ((rxbWord_rxReservedSt5 s b).2 (BitVec.eq_of_toNat_eq h5.symm)))
  · exact .inr (h.takes ((rxbWord_rxReservedSt67 s b).2 h67))

/-- In state code 6 or 7 a RUNNING TX forms the word of its reserved row (log 17). -/
theorem txTakes_reserved {s : State} (hm : s.tx_mode = Mode.RUNNING) (hst : 6 ≤ s.tx_st.toNat) :
    s.txTakes .txReserved := by
  have hidle : s.tx_st ≠ TxSt.TX_IDLE := fun h => by simp [h] at hst
  exact txTakes_of_byte hm hidle ((txbWord_txReserved s).2 hst)

/-! ### The invariant excludes the reserved rows -/

/-- RX takes a step of the RXB map, not one of its two CTL steps, only by the word it forms with a byte. -/
theorem rxTakes_decodeRxb {s : State} {i : Instr} (h : s.rxTakes i) (hh : i ≠ .rxHalt) (hn : i ≠ .rxIncomplete) :
    ∃ b, decodeRxb (s.rxbWord b) = some i := by
  obtain ⟨w, hw, hd⟩ := h
  rcases rxSelect_cases hw with ⟨rfl, -⟩ | ⟨rfl, -⟩ | ⟨b, -, -, -, rfl⟩
  · exact absurd (Except.ok.inj hd).symm hh
  · exact absurd (Except.ok.inj hd).symm hn
  · exact ⟨b, decode_rxb_eq_ok_iff.1 hd⟩

/-- TX takes a step of the TXB map, not its CTL step, only by the word it forms. -/
theorem txTakes_decodeTxb {s : State} {i : Instr} (h : s.txTakes i) (hh : i ≠ .txHalt) :
    decodeTxb s.txbWord = some i := by
  obtain ⟨w, hw, hd⟩ := h
  rcases txSelect_cases hw with ⟨rfl, -⟩ | ⟨rfl, -⟩
  · exact absurd (Except.ok.inj hd).symm hh
  · exact decode_txb_eq_ok_iff.1 hd

theorem RxInv.not_takes_reservedSt5 {s : State} (h : RxInv s) : ¬ s.rxTakes .rxReservedSt5 := by
  intro ht
  obtain ⟨b, hb⟩ := rxTakes_decodeRxb ht (by decide) (by decide)
  have hcode := h.code
  rw [(rxbWord_rxReservedSt5 s b).1 hb] at hcode
  exact absurd hcode (by decide)

theorem RxInv.not_takes_reservedSt67 {s : State} (h : RxInv s) : ¬ s.rxTakes .rxReservedSt67 := by
  intro ht
  obtain ⟨b, hb⟩ := rxTakes_decodeRxb ht (by decide) (by decide)
  have hst : 6 ≤ s.rx_st.toNat := (rxbWord_rxReservedSt67 s b).1 hb
  have hcode := h.code
  omega

theorem TxInv.not_takes_reserved {s : State} (h : TxInv s) : ¬ s.txTakes .txReserved := by
  intro ht
  have hst : 6 ≤ s.tx_st.toNat := (txbWord_txReserved s).1 (txTakes_decodeTxb ht (by decide))
  have hcode := h.code
  omega

/-- Settles O15: the rows are read off the maps, a turn in a reserved state takes a reserved row, whose meaning is
the fault, and the invariant bounds the state codes below the reserved ones. -/
theorem reservedStatesFault : Obligations.ReservedStatesFault := by
  unfold Obligations.ReservedStatesFault
  refine ⟨?rows, ?faults, ?rxTurn, ?txTurn, ?excluded⟩
  case rows =>
    exact ⟨rxbRowIs_of_mem (r := ⟨0xA0, 0xE0, .rxReservedSt5⟩) (by decide),
      rxbRowIs_of_mem (r := ⟨0xC0, 0xC0, .rxReservedSt67⟩) (by decide),
      txbRowIs_of_mem (r := ⟨0x18, 0x18, .txReserved⟩) (by decide)⟩
  case faults => exact fun s => ⟨rfl, rfl, rfl⟩
  case rxTurn =>
    intro s b rest ans ms h hst ha
    rcases h.takes_reserved hst with ht | ht
    · exact step_rx_takes ha ht
    · exact step_rx_takes ha ht
  case txTurn =>
    intro s p ans ms hm hst ha
    exact step_tx_takes ha (txTakes_reserved hm hst)
  case excluded =>
    intro s h
    exact ⟨h.rx.not_takes_reservedSt5, h.rx.not_takes_reservedSt67, h.tx.not_takes_reserved⟩

end Sys2Proof.Machine
end

section
/-! SUPPORT. What the RXB steps that discard a byte or end a frame attempt early do where they are enabled
(40_frame_codec.md R82, R85, R89). -/

namespace Sys2Proof.Machine

section Discard

variable {s : State} {b : Byte} {rest : List Byte}

theorem TakesByte.exec_inDrop (h : TakesByte s b rest) (hst : s.rx_st = RxSt.AWAIT_START) (hb : b ≠ 0xAA) :
    exec .inDrop s = .next { s with link_in := rest, rx_poll := false } := by
  rw [exec, execInDrop, rxbStep_eq h.byte h.enabled ((rxbWord_inDrop s b).2 ⟨hst, hb⟩)]

theorem TakesByte.exec_inLen0 (h : TakesByte s b rest) (hst : s.rx_st = RxSt.READ_LENGTH) (hb : b = 0x00) :
    exec .inLen0 s = .next { s with
      link_in := rest, log := s.log ++ [.malformedZeroLength s.rx_addr],
      rx_st := RxSt.AWAIT_START, rx_poll := true } := by
  rw [exec, execInLen0, rxbStep_eq h.byte h.enabled ((rxbWord_inLen0 s b).2 ⟨hst, hb⟩)]
  rfl

theorem TakesByte.exec_inCrcbad (h : TakesByte s b rest) (hst : s.rx_st = RxSt.READ_CHECKSUM)
    (hb : b ≠ crcFinal s.cfg.algo s.rx_crc) :
    exec .inCrcbad s = .next { s with
      link_in := rest, log := s.log ++ [.malformedChecksum s.rx_addr s.rx_len (crcFinal s.cfg.algo s.rx_crc) b],
      rx_st := RxSt.AWAIT_START, rx_poll := true } := by
  rw [exec, execInCrcbad, rxbStep_eq h.byte h.enabled ((rxbWord_inCrcbad s b).2 ⟨hst, hb⟩)]
  rfl

end Discard

end Sys2Proof.Machine
end

section
/-! SUPPORT. Noise before a frame (40_frame_codec.md R97, 43_inbound_reader.md R128): one byte that is no marker,
then any run of them, by induction on the bytes. -/

namespace Sys2Proof.Machine

/-- In AWAIT_START a byte that is no marker is dropped, and RX reads on: from here on it is inside a decode call, so
a stop request is not sampled. -/
theorem RxReads.step_inDrop {s : State} {b : Byte} {input rest : List Byte} {ms : List Move}
    (h : RxReads s (b :: input) rest ms) (hst : s.rx_st = RxSt.AWAIT_START) (hb : b ≠ 0xAA) :
    ∃ t, step s = .next t ∧ RxReads t input rest ms ∧
      t = { s with
        link_in := input ++ rest, agenda := rxTurns input.length ++ ms, w_ans := .ok, held := false
        rx_poll := false } :=
  ⟨_, (h.step_eq ((rxbWord_inDrop s b).2 ⟨hst, hb⟩)).trans (h.takesByte_inTurn.exec_inDrop hst hb),
    ⟨h.running, .inl rfl, rfl, rfl⟩, rfl⟩

/-- One or more bytes that are no marker are consumed, and no register but `rx_poll` is written. -/
theorem run_noise {s : State} {b : Byte} {noise tail : List Byte} {ms : List Move}
    (h : RxReads s (b :: noise) tail ms) (hst : s.rx_st = RxSt.AWAIT_START) (hb : b ≠ 0xAA)
    (hn : ∀ c ∈ noise, c ≠ 0xAA) :
    run (b :: noise).length s =
      .next { s with link_in := tail, agenda := ms, rx_poll := false, w_ans := .ok, held := false } := by
  induction noise generalizing s b with
  | nil =>
    obtain ⟨t, hs, -, rfl⟩ := h.step_inDrop hst hb
    exact run_succ 0 hs
  | cons c noise ih =>
    obtain ⟨hc, hn⟩ := List.forall_mem_cons.1 hn
    obtain ⟨t, hs, ht, rfl⟩ := h.step_inDrop hst hb
    exact (run_succ _ hs).trans (ih ht hst hc hn)

/-- Settles O37: RX reads the noise in a run of turns, and `run_noise` says where that run ends. -/
theorem noiseIsDroppedSilently : Obligations.NoiseIsDroppedSilently := by
  unfold Obligations.NoiseIsDroppedSilently
  intro s noise tail ms hrun hst hsampled hnoise hne hlink hturns
  obtain ⟨b, noise, rfl⟩ := List.exists_cons_of_ne_nil hne
  obtain ⟨hb, hn⟩ := List.forall_mem_cons.1 hnoise
  exact run_noise ⟨hrun, hsampled, hlink, hturns⟩ hst hb hn

end Sys2Proof.Machine
end

section
/-! SUPPORT. The encoder and the fields of a frame (30_encoding.md R63, R64, 40_frame_codec.md R99, R101). -/

namespace Sys2Proof.Machine

theorem encodeFrame_oversized {g : Crc8Algo} {a : Byte} {p : List Byte} (h : p.length = 0 ∨ 255 < p.length) :
    encodeFrame g a p = .oversizedPayload p.length := if_pos h

theorem encodeFrame_of_length {g : Crc8Algo} {a : Byte} {p : List Byte} (hpos : 1 ≤ p.length)
    (hmax : p.length ≤ 255) : encodeFrame g a p = .bytes (wireFrame g a p) :=
  if_neg (by simp only [Config.MAXLEN]; omega)

/-- Extraction reads back every field of a frame whose length byte counts its payload (30_encoding.md R64). -/
theorem ofBytes_bytes {f : Frame} (h : f.length.toNat = f.payload.length) : Frame.ofBytes f.bytes = some f := by
  simp [Frame.bytes, Frame.ofBytes, h]

/-- The frame the encoder makes satisfies the frame invariant (30_encoding.md R64). -/
theorem frameOf_wf {g : Crc8Algo} {a : Byte} {p : List Byte} (hpos : 1 ≤ p.length) (hmax : p.length ≤ 255) :
    (frameOf g a p).wf g = true := by
  simp only [Frame.wf, frameOf, lengthByte_toNat hmax, beq_self_eq_true, decide_eq_true hpos, Bool.and_self]

/-- Settles O48: an empty or oversized payload is rejected, and any other is put in the frame `frameOf`. -/
theorem encodeMakesWellFormedFrames : Obligations.EncodeMakesWellFormedFrames := by
  unfold Obligations.EncodeMakesWellFormedFrames
  intro g a p
  refine ⟨encodeFrame_oversized, fun hpos hmax => ?_⟩
  have hlen := lengthByte_toNat hmax
  exact ⟨BitVec.ofNat 8 p.length, hlen, encodeFrame_of_length hpos hmax, wireFrame_length g a p,
    frameOf g a p, ofBytes_bytes (f := frameOf g a p) hlen, frameOf_wf hpos hmax, rfl, rfl, rfl⟩

end Sys2Proof.Machine
end

section
/-! SUPPORT. The RXB steps, one by one (40_frame_codec.md R82 to R91): the words of the row, the state and byte in
which RX takes the step, and what it then does. -/

namespace Sys2Proof.Machine

/-- Settles O4: row 0x00 under 0xF0, met in AWAIT_START by a byte that is no marker. -/
theorem inDropDiscardsNonMarker : Obligations.InDropDiscardsNonMarker := by
  unfold Obligations.InDropDiscardsNonMarker
  refine ⟨rxbRowIs_of_mem (r := ⟨0x00, 0xF0, .inDrop⟩) (by decide), fun s b rest h hst hb => ?_⟩
  exact ⟨h.takes ((rxbWord_inDrop s b).2 ⟨hst, hb⟩), h.exec_inDrop hst hb⟩

/-- Settles O5: row 0x10 under 0xF0, met in AWAIT_START by the marker. -/
theorem inSofOpensFrame : Obligations.InSofOpensFrame := by
  unfold Obligations.InSofOpensFrame
  refine ⟨rxbRowIs_of_mem (r := ⟨0x10, 0xF0, .inSof⟩) (by decide), fun s b rest h hst hb => ?_⟩
  exact ⟨h.takes ((rxbWord_inSof s b).2 ⟨hst, hb⟩), h.exec_inSof hst hb⟩

/-- Settles O6: row 0x20 under 0xE0, met in READ_ADDRESS by any byte. -/
theorem inAddrTakesAddress : Obligations.InAddrTakesAddress := by
  unfold Obligations.InAddrTakesAddress
  refine ⟨rxbRowIs_of_mem (r := ⟨0x20, 0xE0, .inAddr⟩) (by decide), fun s b rest h hst => ?_⟩
  exact ⟨h.takes ((rxbWord_inAddr s b).2 hst), h.exec_inAddr hst⟩

/-- Settles O7: row 0x48 under 0xE8, met in READ_LENGTH by the byte 0x00. -/
theorem inLen0RaisesZeroLength : Obligations.InLen0RaisesZeroLength := by
  unfold Obligations.InLen0RaisesZeroLength
  refine ⟨rxbRowIs_of_mem (r := ⟨0x48, 0xE8, .inLen0⟩) (by decide), fun s b rest h hst hb => ?_⟩
  exact ⟨h.takes ((rxbWord_inLen0 s b).2 ⟨hst, hb⟩), h.exec_inLen0 hst hb⟩

/-- Settles O8: row 0x40 under 0xE8, met in READ_LENGTH by any other byte. -/
theorem inLenTakesLength : Obligations.InLenTakesLength := by
  unfold Obligations.InLenTakesLength
  refine ⟨rxbRowIs_of_mem (r := ⟨0x40, 0xE8, .inLen⟩) (by decide), fun s b rest h hst hb => ?_⟩
  exact ⟨h.takes ((rxbWord_inLen s b).2 ⟨hst, hb⟩), h.exec_inLen hst hb⟩

/-- Settles O9: row 0x60 under 0xE4, met in READ_PAYLOAD with more than one byte expected; the buffer is changed by
one write. -/
theorem inPayStoresPayloadByte : Obligations.InPayStoresPayloadByte := by
  unfold Obligations.InPayStoresPayloadByte
  refine ⟨rxbRowIs_of_mem (r := ⟨0x60, 0xE4, .inPay⟩) (by decide), fun s b rest h hbuf hst hr hl => ?_⟩
  have hne : s.rx_rem ≠ 1 := fun h1 => by simp [h1] at hr
  exact ⟨h.takes ((rxbWord_inPay s b).2 ⟨hst, hne⟩), _, h.exec_inPay hst hr hl, rfl,
    toNat_sub_one (Nat.le_of_succ_le hr), Memory.read_write_same hbuf, fun _ => Memory.read_write_other hbuf⟩

/-- Settles O10: row 0x64 under 0xE4, met in READ_PAYLOAD with one byte expected; the buffer is changed by one
write. -/
theorem inPaylastStoresLastByte : Obligations.InPaylastStoresLastByte := by
  unfold Obligations.InPaylastStoresLastByte
  refine ⟨rxbRowIs_of_mem (r := ⟨0x64, 0xE4, .inPaylast⟩) (by decide), fun s b rest h hbuf hst hr hl => ?_⟩
  exact ⟨h.takes ((rxbWord_inPaylast s b).2 ⟨hst, hr⟩), _, h.exec_inPaylast hst hr hl, rfl,
    Memory.read_write_same hbuf, fun _ => Memory.read_write_other hbuf⟩

/-- Settles O11: row 0x80 under 0xE2, met in READ_CHECKSUM by a byte that is not the computed checksum. -/
theorem inCrcbadRaisesChecksumMismatch : Obligations.InCrcbadRaisesChecksumMismatch := by
  unfold Obligations.InCrcbadRaisesChecksumMismatch
  refine ⟨rxbRowIs_of_mem (r := ⟨0x80, 0xE2, .inCrcbad⟩) (by decide), fun s b rest h hst hb => ?_⟩
  exact ⟨h.takes ((rxbWord_inCrcbad s b).2 ⟨hst, hb⟩), h.exec_inCrcbad hst hb⟩

/-- Settles O14: row 0x82 under 0xE3, met in READ_CHECKSUM by the computed checksum of a frame whose address is N or
above. -/
theorem inUnroutableDropsPayload : Obligations.InUnroutableDropsPayload := by
  unfold Obligations.InUnroutableDropsPayload
  refine ⟨rxbRowIs_of_mem (r := ⟨0x82, 0xE3, .inUnroutable⟩) (by decide), fun s b rest h hst hb hn => ?_⟩
  exact ⟨h.takes ((rxbWord_inUnroutable s b).2 ⟨hst, hb, hn⟩), h.exec_inUnroutable hst hb hn⟩

end Sys2Proof.Machine
end

section
/-! SUPPORT. The CRC as a function and as the running registers (41_checksum.md R110, R111, R112): the zero register
stays zero, so a register fed its own value is cleared; the printed table lists eight rounds of each byte; and the
invariant names the bytes that each running register has taken in. -/

namespace Sys2Proof.Machine

@[simp] theorem crcShift_zero (poly : Byte) : crcShift poly 0 = 0 := rfl

@[simp] theorem crcShifts_zero (poly : Byte) (k : Nat) : crcShifts poly k 0 = 0 := by
  induction k with
  | zero => rfl
  | succ k ih => rw [crcShifts, crcShift_zero, ih]

theorem crcUpdate_of_not_refin {g : Crc8Algo} (h : g.refin = false) (reg b : Byte) :
    crcUpdate g reg b = crcShifts g.poly 8 (reg ^^^ b) := by simp [crcUpdate, h]

/-- From the zero register an update without reflection is eight rounds of the byte, `T[b]` (41_checksum.md R111). -/
theorem crcUpdate_zero {g : Crc8Algo} (h : g.refin = false) (b : Byte) :
    crcUpdate g 0x00 b = crcShifts g.poly 8 b := by simp [crcUpdate_of_not_refin h]

/-- Without reflection of the input, a register is cleared by its own value. -/
theorem crcUpdate_self {g : Crc8Algo} (h : g.refin = false) (reg : Byte) : crcUpdate g reg reg = 0 := by
  rw [crcUpdate_of_not_refin h, BitVec.xor_self]; exact crcShifts_zero g.poly 8

theorem crc8_eq_crcRaw {g : Crc8Algo} (hr : g.refout = false) (hx : g.xorout = 0) (m : List Byte) :
    crc8 g m = crcRaw g m := by simp [crc8, crcFinal, hr, hx]

/-- Settles O46: the CRC of the message is its raw register, which the last byte clears. With XOROUT 0x55 the empty
message is a counterexample to the general claim. -/
theorem crcResidueIsZero : Obligations.CrcResidueIsZero := by
  unfold Obligations.CrcResidueIsZero
  refine ⟨fun g m hin hout hx => ?_, { Crc8Algo.dflt with xorout := 0x55 }, [], by decide⟩
  calc crc8 g (m ++ [crc8 g m])
    _ = crcRaw g (m ++ [crcRaw g m]) := by simp only [crc8_eq_crcRaw hout hx]
    _ = crcUpdate g (crcRaw g m) (crcRaw g m) := crcRaw_snoc g m _
    _ = 0 := crcUpdate_self hin _

/-- The printed table, row by row against eight rounds with POLY 0x07. -/
theorem crcTable_getElem? : ∀ v : Byte, crcTable[v.toNat]? = some (crcShifts 0x07 8 v) := by decide

/-- Settles O45: an update is eight rounds of `reg ^^^ b`, and the table lists those. -/
theorem defaultCrcMatchesPrintedTable : Obligations.DefaultCrcMatchesPrintedTable := by
  unfold Obligations.DefaultCrcMatchesPrintedTable
  intro g reg b hpoly hin
  rw [crcUpdate_of_not_refin hin, crcUpdate_zero hin, hpoly]
  exact ⟨rfl, crcTable_getElem? _⟩

/-- In READ_CHECKSUM the register `rx_crc` ends as the CRC8 of the frame attempt. -/
theorem RxInv.crcFinal_rx_crc {s : State} (h : RxInv s) (hst : s.rx_st = RxSt.READ_CHECKSUM) :
    crcFinal s.cfg.algo s.rx_crc = crc8 s.cfg.algo ([s.rx_addr, s.rx_len] ++ s.rxPayload) := by
  obtain ⟨-, -, hcrc⟩ := h.checksum hst
  rw [hcrc, crc8]

theorem State.txSent_of_tx_rem {s : State} (h : s.tx_rem = 0) : s.txSent = s.tx_buf.upTo s.tx_len.toNat := by
  simp [State.txSent, h]

/-- In TX_CRC the register `tx_crc` ends as the CRC8 of the frame sent. -/
theorem TxInv.crcFinal_tx_crc {s : State} (h : TxInv s) (hst : s.tx_st = TxSt.TX_CRC) :
    crcFinal s.cfg.algo s.tx_crc =
      crc8 s.cfg.algo ([s.tx_addr, s.tx_len] ++ s.tx_buf.upTo s.tx_len.toNat) := by
  obtain ⟨hrem, hcrc⟩ := h.crc hst
  rw [hcrc, crc8, State.txSent_of_tx_rem hrem]

/-- Where the register ends as the checksum of the frame attempt, C is the validation of the byte. -/
theorem State.condC_eq_checksumValid {s : State} {p : List Byte}
    (h : crcFinal s.cfg.algo s.rx_crc = crc8 s.cfg.algo ([s.rx_addr, s.rx_len] ++ p)) (b : Byte) :
    s.condC b = checksumValid s.cfg.algo s.rx_addr s.rx_len p b := by
  rw [State.condC, checksumValid, h]

/-- Settles O50: the invariant gives both registers, and condition C compares with the first. -/
theorem runningRegisterIsTheChecksum : Obligations.RunningRegisterIsTheChecksum := by
  unfold Obligations.RunningRegisterIsTheChecksum
  intro s hs
  refine ⟨fun hst => ?_, hs.tx.crcFinal_tx_crc⟩
  have hfin := hs.rx.crcFinal_rx_crc hst
  exact ⟨hfin, State.condC_eq_checksumValid hfin⟩

end Sys2Proof.Machine
end

section
/-! SUPPORT. A delivery where the endpoint answers FAULT (42_router.md R118): the part of the payload that is kept. -/

namespace Sys2Proof.Machine

/-- The part of the payload that `routeInbound` keeps when the endpoint faults at `k` is a prefix of the buffer. -/
theorem State.rxPayload_take_pred (s : State) (k : Nat) :
    s.rxPayload.take (min k (s.rxPayload.length - 1)) = s.rx_buf.upTo (min k (s.rx_len.toNat - 1)) := by
  have hle : min k (s.rx_len.toNat - 1) ≤ s.rx_len.toNat :=
    (Nat.min_le_right _ _).trans (Nat.sub_le _ _)
  rw [State.rxPayload, Memory.upTo_length, Memory.upTo_take, Nat.min_eq_left hle]

theorem TakesByte.exec_inDeliver_fault {s : State} {b : Byte} {rest : List Byte} {k : Nat} (h : TakesByte s b rest)
    (hst : s.rx_st = RxSt.READ_CHECKSUM) (hb : b = crcFinal s.cfg.algo s.rx_crc) (hn : s.rx_addr.toNat < s.cfg.n)
    (hw : s.w_ans = .fault k) :
    exec .inDeliver s = .next { s with
      link_in := rest
      sin := s.sin.set s.rx_addr.toNat
        (s.sin.get s.rx_addr.toNat ++ s.rx_buf.upTo (min k (s.rx_len.toNat - 1)))
      log := s.log ++ [.logicalStreamFault .rx s.rx_addr], rx_st := RxSt.AWAIT_START, rx_poll := true } := by
  rw [exec, execInDeliver, rxbStep_eq h.byte h.enabled ((rxbWord_inDeliver s b).2 ⟨hst, hb, hn⟩),
    routeInbound_fault (by exact hw), State.rxPayload_take_pred]
  rfl

/-- Settles O13: the endpoint keeps the first `min k (rx_len - 1)` bytes of the payload, and `sin` is changed by one
append. -/
theorem inDeliverFaultAppendsShorterPart : Obligations.InDeliverFaultAppendsShorterPart := by
  unfold Obligations.InDeliverFaultAppendsShorterPart
  intro s b rest k h hsin hst hb hn hl hw
  have hj : min k (s.rx_len.toNat - 1) < s.rx_len.toNat :=
    Nat.lt_of_le_of_lt (Nat.min_le_right _ _) (Nat.sub_one_lt_of_lt hl)
  have hk : k < s.rx_len.toNat → min k (s.rx_len.toNat - 1) = k := fun hlt => Nat.min_eq_left (Nat.le_sub_one_of_lt hlt)
  exact ⟨h.takes ((rxbWord_inDeliver s b).2 ⟨hst, hb, hn⟩), _, _, h.exec_inDeliver_fault hst hb hn hw, hj, hk, rfl,
    Streams.get_set_same hsin, fun _ => Streams.get_set_other hsin⟩

end Sys2Proof.Machine
end

section
/-! SUPPORT. The CTL steps of RX (43_inbound_reader.md R124 to R126): the one code of a CTL row, the CTL code that RX
selects by itself, and where a control step completes. -/

namespace Sys2Proof.Machine

/-- The codes that decode to a CTL row's instruction are the row's own alone. -/
theorem ctlCodeIs_of_mem {r : OpRow 4} (hr : r ∈ ctlRows) : ctlCodeIs r.instr r.pattern := by
  have table : ∀ r ∈ ctlRows, ∀ k, decodeCtl k = some r.instr ↔ k = r.pattern := by decide
  exact fun k => decode_ctl_eq_ok_iff.trans (table r hr k)

/-- A control step completes exactly under the condition that its enabling bit computes (log 8). -/
theorem ctlStep_of_iff {e : Bool} {p : Prop} (he : e = true ↔ p) (t : State) :
    (p → ctlStep e t = .next t) ∧ (¬ p → ctlStep e t = .refused .notEnabled) := by
  refine ⟨fun hp => ?_, fun hn => ?_⟩
  · rw [he.2 hp, ctlStep_true]
  · rw [Bool.eq_false_iff.2 (mt he.1 hn), ctlStep_false]

/-- Where RX_HALT is enabled RX selects it, before it looks at `link_in`. -/
theorem rxTakes_rxHalt {s : State} (h : s.rxHaltEnabled = true) : s.rxTakes .rxHalt :=
  ⟨.ctl 0x3, if_pos h, by decide⟩

/-- Where RX_INCOMPLETE is enabled RX selects it: inside a decode call RX_HALT is not. -/
theorem rxTakes_rxIncomplete {s : State} (h : s.rxIncompleteEnabled = true) : s.rxTakes .rxIncomplete := by
  obtain ⟨-, hinside, -⟩ := (rxIncompleteEnabled_iff s).1 h
  have hhalt : s.rxHaltEnabled ≠ true := by simp [rxHaltEnabled_iff, hinside]
  exact ⟨.ctl 0x2, (if_neg hhalt).trans (if_pos h), by decide⟩

/-- Closing the link while RX is RUNNING is RX_LINK_FAULT, with RESET released (70_reset_and_hazards.md R180). -/
theorem step_closeLink_running {s : State} {ms : List Move} (ha : s.agenda = .closeLink :: ms)
    (hm : s.rx_mode = Mode.RUNNING) : step s = exec .rxLinkFault { s with agenda := ms, held := false } := by
  rw [step_cons ha]
  exact if_pos (beq_iff_eq.2 hm)

/-- Settles O25: code 0x2, taken inside a decode call with no byte waiting. -/
theorem rxIncompleteKeepsCursor : Obligations.RxIncompleteKeepsCursor := by
  unfold Obligations.RxIncompleteKeepsCursor
  refine ⟨ctlCodeIs_of_mem (r := ⟨0x2, 0xF, .rxIncomplete⟩) (by decide), fun s => ?_⟩
  have henabled := rxIncompleteEnabled_iff s
  obtain ⟨hnext, hrefused⟩ := ctlStep_of_iff henabled { s with rx_poll := true }
  exact ⟨fun h => ⟨rxTakes_rxIncomplete (henabled.2 h), hnext h⟩, hrefused⟩

/-- Settles O26: code 0x3, taken at the top of the loop with a stop request, whatever `link_in` holds. -/
theorem rxHaltHonoursStop : Obligations.RxHaltHonoursStop := by
  unfold Obligations.RxHaltHonoursStop
  refine ⟨ctlCodeIs_of_mem (r := ⟨0x3, 0xF, .rxHalt⟩) (by decide), fun s => ?_⟩
  have henabled := rxHaltEnabled_iff s
  obtain ⟨hnext, hrefused⟩ := ctlStep_of_iff henabled { s with rx_mode := Mode.STOPPED }
  exact ⟨fun h => ⟨rxTakes_rxHalt (henabled.2 h), hnext h⟩, hrefused⟩

/-- Settles O27: code 0x4, taken while RX is RUNNING, and by the move closeLink too. -/
theorem rxLinkFaultEndsRx : Obligations.RxLinkFaultEndsRx := by
  unfold Obligations.RxLinkFaultEndsRx
  refine ⟨ctlCodeIs_of_mem (r := ⟨0x4, 0xF, .rxLinkFault⟩) (by decide), fun s => ?_⟩
  have henabled : s.rxLinkFaultEnabled = true ↔ s.rx_mode = Mode.RUNNING := beq_iff_eq
  obtain ⟨hnext, hrefused⟩ := ctlStep_of_iff henabled (s.linkFault .rx)
  exact ⟨hnext, hrefused, fun _ => step_closeLink_running⟩

end Sys2Proof.Machine
end

section
/-! SUPPORT. What the TXB steps do where they are enabled (44_outbound_writer.md R134 to R141): a fetch attempt with
the endpoint served, then the byte steps of the frame. -/

namespace Sys2Proof.Machine

section Serve

variable {s : State} {a k : Nat}

theorem fetchEnabled_of_endpoint (hm : s.tx_mode = Mode.RUNNING) (hst : s.tx_st = TxSt.TX_IDLE)
    (hstop : s.stop = false) (ha : s.fetchEndpoint = some a) : s.fetchEnabled = true :=
  (fetchEnabled_iff s).2 ⟨hm, hst, hstop, Option.isSome_of_eq_some ha⟩

/-- The endpoint served has an address of one byte (00_scope.md R6). -/
theorem endpointByte_toNat (ha : s.fetchEndpoint = some a) (hn : s.cfg.n ≤ 256) : (BitVec.ofNat 8 a).toNat = a :=
  lengthByte_toNat (Nat.le_of_lt_succ (Nat.lt_of_lt_of_le (fetchEndpoint_spec ha).1 hn))

theorem exec_outFetch (hf : s.fetchEnabled = true) (ha : s.fetchEndpoint = some a) (hr : s.r_ans = .ok) :
    exec .outFetch s = .next { s with
      sout := s.sout.set a ((s.sout.get a).drop (s.chunkLen a)), tx_buf := s.tx_buf.writeFrom 0 (s.chunk a),
      tx_addr := BitVec.ofNat 8 a, tx_len := BitVec.ofNat 8 (s.chunkLen a),
      tx_rem := BitVec.ofNat 8 (s.chunkLen a), tx_crc := s.cfg.algo.init, tx_st := TxSt.TX_START } := by
  obtain ⟨-, hst, -, -⟩ := (fetchEnabled_iff s).1 hf
  exact fetchStep_eq ha hf ((txbWord_outFetch s).2 ⟨hst, hr⟩)

theorem lostBytes_fault (hr : s.r_ans = .fault k) : s.lostBytes a = min k (s.chunkLen a) := by
  simp only [State.lostBytes, hr]

theorem exec_outSfault (hf : s.fetchEnabled = true) (ha : s.fetchEndpoint = some a) (hr : s.r_ans = .fault k) :
    exec .outSfault s = .next { s with
      sout := s.sout.set a ((s.sout.get a).drop (min k (s.chunkLen a))),
      log := s.log ++ [.logicalStreamFault .tx (BitVec.ofNat 8 a)] } := by
  obtain ⟨-, hst, -, -⟩ := (fetchEnabled_iff s).1 hf
  rw [← lostBytes_fault hr]
  exact fetchStep_eq ha hf ((txbWord_outSfault s).2 ⟨hst, k, hr⟩)

/-- A chunk fetched into the buffer reads back whole. -/
theorem upTo_writeFrom_chunk (hbuf : s.tx_buf.wf) :
    (s.tx_buf.writeFrom 0 (s.chunk a)).upTo (s.chunkLen a) = s.chunk a := by
  rw [← chunk_length]
  exact Memory.upTo_writeFrom hbuf

/-- A chunk fetched into the buffer leaves the elements past its end. -/
theorem read_writeFrom_chunk {i : Nat} (hbuf : s.tx_buf.wf) (hi : s.chunkLen a ≤ i) :
    (s.tx_buf.writeFrom 0 (s.chunk a)).read i = s.tx_buf.read i := by
  have hnone : (s.chunk a)[i]? = none := List.getElem?_eq_none (by rwa [chunk_length])
  simp [Memory.read_writeFrom hbuf, hnone]

end Serve

section Send

variable {s : State}

/-- Inside a frame TX takes the byte step whose row the word matches, and the step has its effect. -/
theorem txTakes_and_txbStep_eq {i : Instr} {r : Result} (hm : s.tx_mode = Mode.RUNNING)
    (hst : s.tx_st ≠ TxSt.TX_IDLE) (hd : decodeTxb s.txbWord = some i) : s.txTakes i ∧ txbStep i s r = r :=
  ⟨txTakes_of_byte hm hst hd, txbStep_eq ((txByteEnabled_iff s).2 ⟨hm, hst⟩) hd⟩

theorem txTakes_exec_outStart (hm : s.tx_mode = Mode.RUNNING) (hst : s.tx_st = TxSt.TX_START) :
    s.txTakes .outStart ∧
      exec .outStart s = .next { s with link_out := s.link_out ++ [0xAA], tx_st := TxSt.TX_ADDR } :=
  txTakes_and_txbStep_eq hm (by simp [hst]) ((txbWord_outStart s).2 hst)

theorem txTakes_exec_outAddr (hm : s.tx_mode = Mode.RUNNING) (hst : s.tx_st = TxSt.TX_ADDR) :
    s.txTakes .outAddr ∧
      exec .outAddr s = .next { s with
        link_out := s.link_out ++ [s.tx_addr], tx_crc := crcUpdate s.cfg.algo s.tx_crc s.tx_addr,
        tx_st := TxSt.TX_LEN } :=
  txTakes_and_txbStep_eq hm (by simp [hst]) ((txbWord_outAddr s).2 hst)

theorem txTakes_exec_outLen (hm : s.tx_mode = Mode.RUNNING) (hst : s.tx_st = TxSt.TX_LEN) :
    s.txTakes .outLen ∧
      exec .outLen s = .next { s with
        link_out := s.link_out ++ [s.tx_len], tx_crc := crcUpdate s.cfg.algo s.tx_crc s.tx_len,
        tx_st := TxSt.TX_PAYLOAD } :=
  txTakes_and_txbStep_eq hm (by simp [hst]) ((txbWord_outLen s).2 hst)

theorem txTakes_exec_outPay (hm : s.tx_mode = Mode.RUNNING) (hst : s.tx_st = TxSt.TX_PAYLOAD)
    (hr : 2 ≤ s.tx_rem.toNat) (hl : s.tx_rem.toNat ≤ s.tx_len.toNat) :
    s.txTakes .outPay ∧
      exec .outPay s = .next { s with
        link_out := s.link_out ++ [s.tx_buf.read (s.tx_len.toNat - s.tx_rem.toNat)],
        tx_crc := crcUpdate s.cfg.algo s.tx_crc (s.tx_buf.read (s.tx_len.toNat - s.tx_rem.toNat)),
        tx_rem := s.tx_rem - 1 } := by
  have hne : s.tx_rem ≠ 1 := fun h1 => by simp [h1] at hr
  rw [exec, execOutPay, payloadIndex_eq (Nat.le_of_succ_le hr) hl]
  exact txTakes_and_txbStep_eq hm (by simp [hst]) ((txbWord_outPay s).2 ⟨hst, hne⟩)

theorem txTakes_exec_outPaylast (hm : s.tx_mode = Mode.RUNNING) (hst : s.tx_st = TxSt.TX_PAYLOAD) (hr : s.tx_rem = 1)
    (hl : 1 ≤ s.tx_len.toNat) :
    s.txTakes .outPaylast ∧
      exec .outPaylast s = .next { s with
        link_out := s.link_out ++ [s.tx_buf.read (s.tx_len.toNat - 1)],
        tx_crc := crcUpdate s.cfg.algo s.tx_crc (s.tx_buf.read (s.tx_len.toNat - 1)), tx_rem := 0,
        tx_st := TxSt.TX_CRC } := by
  have hj : payloadIndex s.tx_len s.tx_rem = some (s.tx_len.toNat - 1) := by
    rw [hr]; exact payloadIndex_eq (by decide) hl
  rw [exec, execOutPaylast, hj]
  exact txTakes_and_txbStep_eq hm (by simp [hst]) ((txbWord_outPaylast s).2 ⟨hst, hr⟩)

theorem txTakes_exec_outCrc (hm : s.tx_mode = Mode.RUNNING) (hst : s.tx_st = TxSt.TX_CRC) :
    s.txTakes .outCrc ∧
      exec .outCrc s = .next { s with
        link_out := s.link_out ++ [crcFinal s.cfg.algo s.tx_crc], tx_st := TxSt.TX_IDLE } :=
  txTakes_and_txbStep_eq hm (by simp [hst]) ((txbWord_outCrc s).2 hst)

end Send

end Sys2Proof.Machine
end

section
/-! SUPPORT. The steps of TX, one by one (44_outbound_writer.md R134 to R143): the words or the code of the row, the
state in which TX takes the step, and what it then does. -/

namespace Sys2Proof.Machine

/-- Settles O16: row 0x00 under 0x1D, met at TX_IDLE by an endpoint that answers OK; the buffer is changed by one block
write of the chunk, and `sout` loses it. -/
theorem outFetchTakesOldestChunk : Obligations.OutFetchTakesOldestChunk := by
  unfold Obligations.OutFetchTakesOldestChunk
  refine ⟨txbRowIs_of_mem (r := ⟨0x00, 0x1D, .outFetch⟩) (by decide),
    fun s a hm hst hstop ha hans hn hbuf hsout => ?_⟩
  have hf := fetchEnabled_of_endpoint hm hst hstop ha
  obtain ⟨hlt, hpos⟩ := fetchEndpoint_spec ha
  exact ⟨txTakes_of_fetch hf ((txbWord_outFetch s).2 ⟨hst, hans⟩), _, s.chunkLen a, exec_outFetch hf ha hans, rfl,
    chunkLen_pos hpos, hlt, rfl,
    endpointByte_toNat ha hn, lengthByte_toNat (chunkLen_le s a),
    upTo_writeFrom_chunk hbuf, fun _ => read_writeFrom_chunk hbuf,
    Streams.get_set_same hsout, fun _ => Streams.get_set_other hsout,
    fun a' hready => fetchEndpoint_pick (s := { s with pick := a' }) hready⟩

/-- Settles O17: row 0x01 under 0x1D, met at TX_IDLE by an endpoint that answers FAULT; it loses the first
`min k c` bytes. -/
theorem outSfaultRaisesStreamFault : Obligations.OutSfaultRaisesStreamFault := by
  unfold Obligations.OutSfaultRaisesStreamFault
  refine ⟨txbRowIs_of_mem (r := ⟨0x01, 0x1D, .outSfault⟩) (by decide),
    fun s a k hm hst hstop ha hans hn hsout => ?_⟩
  have hf := fetchEnabled_of_endpoint hm hst hstop ha
  exact ⟨txTakes_of_fetch hf ((txbWord_outSfault s).2 ⟨hst, k, hans⟩), _, min k (s.chunkLen a),
    exec_outSfault hf ha hans, Nat.min_le_right _ _, Nat.min_eq_left, ⟨_, endpointByte_toNat ha hn, rfl⟩,
    Streams.get_set_same hsout, fun _ => Streams.get_set_other hsout⟩

/-- Settles O18: row 0x04 under 0x1C, met in TX_START. -/
theorem outStartSendsMarker : Obligations.OutStartSendsMarker := by
  unfold Obligations.OutStartSendsMarker
  exact ⟨txbRowIs_of_mem (r := ⟨0x04, 0x1C, .outStart⟩) (by decide), fun _ => txTakes_exec_outStart⟩

/-- Settles O19: row 0x08 under 0x1C, met in TX_ADDR. -/
theorem outAddrSendsAddress : Obligations.OutAddrSendsAddress := by
  unfold Obligations.OutAddrSendsAddress
  exact ⟨txbRowIs_of_mem (r := ⟨0x08, 0x1C, .outAddr⟩) (by decide), fun _ => txTakes_exec_outAddr⟩

/-- Settles O20: row 0x0C under 0x1C, met in TX_LEN. -/
theorem outLenSendsLength : Obligations.OutLenSendsLength := by
  unfold Obligations.OutLenSendsLength
  exact ⟨txbRowIs_of_mem (r := ⟨0x0C, 0x1C, .outLen⟩) (by decide), fun _ => txTakes_exec_outLen⟩

/-- Settles O21: row 0x10 under 0x1E, met in TX_PAYLOAD with more than one byte left to send. -/
theorem outPaySendsPayloadByte : Obligations.OutPaySendsPayloadByte := by
  unfold Obligations.OutPaySendsPayloadByte
  refine ⟨txbRowIs_of_mem (r := ⟨0x10, 0x1E, .outPay⟩) (by decide), fun s hm hst hr hl => ?_⟩
  obtain ⟨htakes, hexec⟩ := txTakes_exec_outPay hm hst hr hl
  exact ⟨htakes, _, rfl, hexec, toNat_sub_one (Nat.le_of_succ_le hr)⟩

/-- Settles O22: row 0x12 under 0x1E, met in TX_PAYLOAD with one byte left to send. -/
theorem outPaylastSendsLastByte : Obligations.OutPaylastSendsLastByte := by
  unfold Obligations.OutPaylastSendsLastByte
  refine ⟨txbRowIs_of_mem (r := ⟨0x12, 0x1E, .outPaylast⟩) (by decide), fun s hm hst hr hl => ?_⟩
  obtain ⟨htakes, hexec⟩ := txTakes_exec_outPaylast hm hst hr hl
  exact ⟨htakes, _, rfl, hexec⟩

/-- Settles O23: row 0x14 under 0x1C, met in TX_CRC. -/
theorem outCrcSendsChecksum : Obligations.OutCrcSendsChecksum := by
  unfold Obligations.OutCrcSendsChecksum
  exact ⟨txbRowIs_of_mem (r := ⟨0x14, 0x1C, .outCrc⟩) (by decide), fun _ => txTakes_exec_outCrc⟩

/-- Where TX_HALT is enabled TX selects it, whatever the endpoints hold. -/
theorem txTakes_txHalt {s : State} (h : s.txHaltEnabled = true) : s.txTakes .txHalt :=
  ⟨.ctl 0x5, if_pos h, by decide⟩

/-- Settles O28: code 0x5, taken at TX_IDLE with a stop request. -/
theorem txHaltHonoursStopAtIdle : Obligations.TxHaltHonoursStopAtIdle := by
  unfold Obligations.TxHaltHonoursStopAtIdle
  refine ⟨ctlCodeIs_of_mem (r := ⟨0x5, 0xF, .txHalt⟩) (by decide), fun s => ?_⟩
  have henabled := txHaltEnabled_iff s
  obtain ⟨hnext, hrefused⟩ := ctlStep_of_iff henabled { s with tx_mode := Mode.STOPPED }
  exact ⟨fun h => ⟨txTakes_txHalt (henabled.2 h), hnext h⟩, hrefused⟩

/-- Settles O29: code 0x6, taken while TX is RUNNING. -/
theorem txLinkFaultEndsTx : Obligations.TxLinkFaultEndsTx := by
  unfold Obligations.TxLinkFaultEndsTx
  refine ⟨ctlCodeIs_of_mem (r := ⟨0x6, 0xF, .txLinkFault⟩) (by decide), fun s => ?_⟩
  have henabled : s.txLinkFaultEnabled = true ↔ s.tx_mode = Mode.RUNNING := beq_iff_eq
  exact ctlStep_of_iff henabled (s.linkFault .tx)

end Sys2Proof.Machine
end

section
/-! SUPPORT. RESET as a step (70_reset_and_hazards.md R173). -/

namespace Sys2Proof.Machine

/-- Settles O2: code 0x0 is RESET's row, and RESET answers `applyReset` in every state. -/
theorem resetStepSetsItsTable : Obligations.ResetStepSetsItsTable := by
  unfold Obligations.ResetStepSetsItsTable
  refine ⟨ctlCodeIs_of_mem (r := ⟨0x0, 0xF, .reset⟩) (by decide), fun s => ⟨s.applyReset, rfl, ?_⟩⟩
  simp

end Sys2Proof.Machine
end

section
/-! SUPPORT. How a direction comes to its end (70_reset_and_hazards.md R182): its mode and a bound on the steps it has
left, and that a sequence of such pairs which comes nearer again and again is RUNNING no more from some point on. -/

namespace Sys2Proof.Machine

/-- From p to q, each a direction's mode with a bound on the steps it has left before its halting step, a RUNNING
direction ended or has fewer steps left. -/
def Nearer (p q : ModeCode × Nat) : Prop :=
  p.1 = Mode.RUNNING ∧ (q.1 ≠ Mode.RUNNING ∨ q.2 < p.2)

section Ends

variable {d : Nat → ModeCode × Nat} {n : Nat}
  (hstep : ∀ m, n ≤ m → d (m + 1) = d m ∨ Nearer (d m) (d (m + 1)))

include hstep

theorem ended_persists {k : Nat} (hk : n ≤ k) (hend : (d k).1 ≠ Mode.RUNNING) {m : Nat} (hm : k ≤ m) :
    (d m).1 ≠ Mode.RUNNING := by
  induction m, hm using Nat.le_induction with
  | base => exact hend
  | succ m hm ih =>
    rcases hstep m (hk.trans hm) with heq | ⟨hrun, -⟩
    · rwa [heq]
    · exact absurd hrun ih

theorem stepsLeft_antitone (hrun : ∀ m, n ≤ m → (d m).1 = Mode.RUNNING) {k m : Nat} (hk : n ≤ k) (hm : k ≤ m) :
    (d m).2 ≤ (d k).2 := by
  induction m, hm using Nat.le_induction with
  | base => exact le_rfl
  | succ m hm ih =>
    rcases hstep m (hk.trans hm) with heq | ⟨-, hend | hlt⟩
    · rwa [heq]
    · exact absurd (hrun (m + 1) (by omega)) hend
    · omega

/-- A direction that no step takes farther from its end, and that comes nearer to it again and again while it is
RUNNING, ends for good: the steps left cannot fall for ever. -/
theorem ends_of_nearer
    (hfair : ∀ m, n ≤ m → (∀ j, m ≤ j → (d j).1 = Mode.RUNNING) → ∃ j, m ≤ j ∧ Nearer (d j) (d (j + 1))) :
    ∃ k, n ≤ k ∧ ∀ m, k ≤ m → (d m).1 ≠ Mode.RUNNING := by
  by_contra! hnever
  have hrun (m : Nat) (hm : n ≤ m) : (d m).1 = Mode.RUNNING := by
    obtain ⟨j, hj, hjrun⟩ := hnever m hm
    by_contra hend
    exact ended_persists hstep hm hend hj hjrun
  have hbelow (c : Nat) : ∀ m, n ≤ m → c ≤ (d m).2 := by
    induction c with
    | zero => exact fun _ _ => Nat.zero_le _
    | succ c ih =>
      intro m hm
      obtain ⟨j, hj, -, hend | hlt⟩ := hfair m hm fun j hj => hrun j (hm.trans hj)
      · exact absurd (hrun (j + 1) (by omega)) hend
      · exact ((ih (j + 1) (by omega)).trans_lt hlt).trans_le (stepsLeft_antitone hstep hrun hm hj)
  exact absurd (hbelow ((d n).2 + 1) n le_rfl) (by omega)

end Ends

end Sys2Proof.Machine
end

section
/-! SUPPORT. What a move other than RESET does to the control registers of the two directions, and how near it brings
each to its end (43_inbound_reader.md R124 to R126, 44_outbound_writer.md R136 to R143). -/

namespace Sys2Proof.Machine

/-- A bound on the byte steps TX has left before TX_IDLE: a frame has at most 255 payload bytes, and outside
TX_PAYLOAD the state code alone says how many are still to come. -/
def State.txLeft (s : State) : Nat :=
  if s.tx_st = TxSt.TX_IDLE then 0
  else if s.tx_st = TxSt.TX_CRC then 1
  else if s.tx_st = TxSt.TX_PAYLOAD then s.tx_rem.toNat + 1
  else 260 - s.tx_st.toNat

/-- How far TX is from its end. -/
def State.txDistance (s : State) : ModeCode × Nat := (s.tx_mode, s.txLeft)

/-- How far RX is from its end, once it takes no byte any more: RX_INCOMPLETE is left inside a decode call. -/
def State.rxDistance (s : State) : ModeCode × Nat := (s.rx_mode, if s.rx_poll then 0 else 1)

theorem TxAgree.txDistance_eq {s t : State} (h : TxAgree s t) : t.txDistance = s.txDistance := by
  simp only [State.txDistance, State.txLeft, h.tx_mode, h.tx_st, h.tx_rem]

theorem rxDistance_eq_iff {s t : State} :
    t.rxDistance = s.rxDistance ↔ t.rx_mode = s.rx_mode ∧ t.rx_poll = s.rx_poll := by
  rw [State.rxDistance, State.rxDistance, Prod.mk.injEq]
  cases t.rx_poll <;> cases s.rx_poll <;> simp

theorem RxAgree.rxDistance_eq {s t : State} (h : RxAgree s t) : t.rxDistance = s.rxDistance :=
  rxDistance_eq_iff.2 ⟨h.rx_mode.symm, h.rx_poll.symm⟩

/-- With `stop` set TX starts no frame, and each of its steps brings it nearer to its end. -/
theorem exec_tx_nearer {i : Instr} {s t : State} (hi : i.ofTx = true) (hx : exec i s = .next t) (hs : s.stop = true) :
    Nearer s.txDistance t.txDistance := by
  have hnofetch : s.fetchEnabled ≠ true := by simp [fetchEnabled_iff, hs]
  cases i with
  | outFetch =>
    obtain ⟨_, _, hf, _⟩ := exec_outFetch_next hx
    exact absurd hf hnofetch
  | outSfault =>
    obtain ⟨_, _, hf, _⟩ := exec_outSfault_next hx
    exact absurd hf hnofetch
  | outStart =>
    obtain ⟨hm, hst, rfl⟩ := exec_outStart_next hx
    exact ⟨hm, .inr (by simp [State.txDistance, State.txLeft, hst])⟩
  | outAddr =>
    obtain ⟨hm, hst, rfl⟩ := exec_outAddr_next hx
    exact ⟨hm, .inr (by simp [State.txDistance, State.txLeft, hst])⟩
  | outLen =>
    obtain ⟨hm, hst, rfl⟩ := exec_outLen_next hx
    have hrem := s.tx_rem.isLt
    exact ⟨hm, .inr (by simp [State.txDistance, State.txLeft, hst]; omega)⟩
  | outPay =>
    obtain ⟨hm, hst, -, hpos, -, rfl⟩ := exec_outPay_next hx
    have hrem := toNat_sub_one hpos
    exact ⟨hm, .inr (by simp [State.txDistance, State.txLeft, hst]; omega)⟩
  | outPaylast =>
    obtain ⟨hm, hst, -, hpos, -, rfl⟩ := exec_outPaylast_next hx
    exact ⟨hm, .inr (by simp [State.txDistance, State.txLeft, hst]; omega)⟩
  | outCrc =>
    obtain ⟨hm, hst, rfl⟩ := exec_outCrc_next hx
    exact ⟨hm, .inr (by simp [State.txDistance, State.txLeft, hst])⟩
  | txHalt =>
    obtain ⟨he, rfl⟩ := exec_txHalt_next hx
    exact ⟨((txHaltEnabled_iff s).1 he).1, .inl (by simp [State.txDistance])⟩
  | _ => cases hi

/-- A step of RX that completes is one of its two control steps, or takes a byte. -/
theorem exec_rx_enabled {i : Instr} {s t : State} (hi : i.ofRx = true) (hx : exec i s = .next t) :
    i = .rxHalt ∨ i = .rxIncomplete ∨ s.rxbEnabled = true := by
  cases i with
  | rxHalt => exact .inl rfl
  | rxIncomplete => exact .inr (.inl rfl)
  | inDrop | inSof | inAddr | inLen0 | inLen | inPay | inPaylast | inCrcbad | inDeliver | inUnroutable =>
    rw [exec] at hx
    obtain ⟨_, _, -, he, -⟩ := rxbStep_next hx
    exact .inr (.inr he)
  | _ => cases hi

/-- Where RX can take no byte, each of its steps brings it nearer to its end. -/
theorem exec_rx_nearer {i : Instr} {s t : State} (hi : i.ofRx = true) (hx : exec i s = .next t)
    (hb : s.rxbEnabled = false) : Nearer s.rxDistance t.rxDistance := by
  rcases exec_rx_enabled hi hx with rfl | rfl | he
  · obtain ⟨he, rfl⟩ := exec_rxHalt_next hx
    exact ⟨((rxHaltEnabled_iff s).1 he).1, .inl (by simp [State.rxDistance])⟩
  · obtain ⟨he, rfl⟩ := exec_rxIncomplete_next hx
    obtain ⟨hm, hpoll, -⟩ := (rxIncompleteEnabled_iff s).1 he
    exact ⟨hm, .inr (by simp [State.rxDistance, hpoll])⟩
  · exact absurd he (by simp [hb])

/-- A reserved row answers no next state. -/
theorem exec_not_next_of_reserved {i : Instr} {s t : State} (hi : i ∈ [.rxReservedSt5, .rxReservedSt67, .txReserved]) :
    exec i s ≠ .next t := by
  obtain ⟨h5, h67, htx⟩ := exec_reserved_not_next (s := s) (t := t)
  fin_cases hi
  · exact h5
  · exact h67
  · exact htx

/-- No instruction but RESET takes TX farther from its end under `stop`. -/
theorem exec_txDistance {i : Instr} {s t : State} (hi : i ≠ .reset) (hx : exec i s = .next t) (hs : s.stop = true) :
    t.txDistance = s.txDistance ∨ Nearer s.txDistance t.txDistance := by
  rcases instr_kinds i with hrx | htx | hhost | hres
  · exact .inl (exec_rx_keeps_tx hrx hx).txDistance_eq
  · exact .inr (exec_tx_nearer htx hx hs)
  · fin_cases hhost
    · exact absurd rfl hi
    · rw [exec_setStop_next hx]; exact .inl rfl
    · rw [(exec_rxLinkFault_next hx).2]; exact .inl rfl
    · obtain ⟨hm, rfl⟩ := exec_txLinkFault_next hx
      exact .inr ⟨hm, .inl (by simp [State.txDistance])⟩
  · exact absurd hx (exec_not_next_of_reserved hres)

/-- No instruction but RESET takes an RX that can take no byte farther from its end. -/
theorem exec_rxDistance {i : Instr} {s t : State} (hi : i ≠ .reset) (hx : exec i s = .next t)
    (hb : s.rxbEnabled = false) : t.rxDistance = s.rxDistance ∨ Nearer s.rxDistance t.rxDistance := by
  rcases instr_kinds i with hrx | htx | hhost | hres
  · exact .inr (exec_rx_nearer hrx hx hb)
  · exact .inl (exec_tx_keeps_rx htx hx).rxDistance_eq
  · fin_cases hhost
    · exact absurd rfl hi
    · rw [exec_setStop_next hx]; exact .inl rfl
    · obtain ⟨hm, rfl⟩ := exec_rxLinkFault_next hx
      exact .inr ⟨hm, .inl (by simp [State.rxDistance])⟩
    · rw [(exec_txLinkFault_next hx).2]; exact .inl rfl
  · exact absurd hx (exec_not_next_of_reserved hres)

/-- A move other than RESET ran an instruction other than RESET, with the answers of the step in hand, or left both
directions as far from their ends as they were. -/
theorem MoveEffect.exec_or_distances_eq {m : Move} {s t : State} (h : MoveEffect s t m) (hm : m ≠ .ctl 0x0) :
    (∃ i w p a, i ≠ .reset ∧ exec i { s with w_ans := w, pick := p, r_ans := a, held := false } = .next t) ∨
      (t.rxDistance = s.rxDistance ∧ t.txDistance = s.txDistance) := by
  cases h with
  | rxStep ans i htakes hx =>
    have hi : i ≠ .reset := fun hi => absurd (rxTakes_kind (hi ▸ htakes)) (by decide)
    exact .inl ⟨i, ans, _, _, hi, hx⟩
  | txStep p ans i htakes hx =>
    have hi : i ≠ .reset := fun hi => absurd (txTakes_kind (hi ▸ htakes)) (by decide)
    exact .inl ⟨i, _, p, ans, hi, hx⟩
  | ctlStep k i hd _ hx =>
    have hi : i ≠ .reset := fun hi => hm (congrArg Move.ctl (decodeCtl_reset (hi ▸ hd)))
    exact .inl ⟨i, _, _, _, hi, hx⟩
  | closeRunning _ hx => exact .inl ⟨.rxLinkFault, _, _, _, by decide, hx⟩
  | rxWait _ _ _ h | txWait _ _ _ _ h | ctlIdle _ h | appendLinkIn _ h | drainLinkOut _ h | appendSout _ _ _ h
  | readModes h | configure _ _ _ h | closeEnded _ h | releaseEndpoints h => rw [h]; exact .inr ⟨rfl, rfl⟩

/-! A turn hands `exec` the state with its answers put in and RESET released. As far as the two distances go that is
the state itself, so below `exec`'s lemmas are elaborated apart from the goal, by `(… :)`. -/

/-- No move but RESET takes TX farther from its end under `stop`. -/
theorem MoveEffect.txDistance {m : Move} {s t : State} (h : MoveEffect s t m) (hm : m ≠ .ctl 0x0)
    (hs : s.stop = true) : t.txDistance = s.txDistance ∨ Nearer s.txDistance t.txDistance := by
  rcases h.exec_or_distances_eq hm with ⟨i, w, p, a, hi, hx⟩ | ⟨-, htx⟩
  · exact (exec_txDistance hi hx hs :)
  · exact .inl htx

/-- No move but RESET takes an RX that can take no byte farther from its end. -/
theorem MoveEffect.rxDistance {m : Move} {s t : State} (h : MoveEffect s t m) (hm : m ≠ .ctl 0x0)
    (hb : s.rxbEnabled = false) : t.rxDistance = s.rxDistance ∨ Nearer s.rxDistance t.rxDistance := by
  rcases h.exec_or_distances_eq hm with ⟨i, w, p, a, hi, hx⟩ | ⟨hrx, -⟩
  · exact (exec_rxDistance hi hx hb :)
  · exact .inl hrx

/-- The CTL codes that are steps of RX. -/
theorem takesRxStep_ctl {s : State} {k : CtlCode} (h : s.takesRxStep (.ctl k) = true) :
    (k = 0x2 ∧ s.rxIncompleteEnabled = true) ∨ (k = 0x3 ∧ s.rxHaltEnabled = true) := by
  simpa [State.takesRxStep] using h

/-- The CTL code that is a step of TX. -/
theorem takesTxStep_ctl {s : State} {k : CtlCode} (h : s.takesTxStep (.ctl k) = true) :
    k = 0x5 ∧ s.txHaltEnabled = true := by
  simpa [State.takesTxStep] using h

/-- A move that is a step of TX brings TX nearer to its end under `stop`. -/
theorem MoveEffect.tx_nearer {m : Move} {s t : State} (h : MoveEffect s t m) (hs : s.stop = true)
    (htakes : s.takesTxStep m = true) : Nearer s.txDistance t.txDistance := by
  cases h with
  | txStep p ans i ht hx =>
    rcases txTakes_kind ht with hi | rfl
    · exact (exec_tx_nearer hi hx hs :)
    · exact absurd hx (exec_not_next_of_reserved (by decide))
  | txWait p ans _ hn =>
    have hcan : s.txCanStep = true := htakes
    rw [← txCanStep_answers s p ans, State.txCanStep, hn] at hcan
    cases hcan
  | ctlStep k i hd _ hx =>
    obtain ⟨rfl, -⟩ := takesTxStep_ctl htakes
    obtain rfl : i = .txHalt := Option.some.inj (hd.symm.trans (by decide))
    exact (exec_tx_nearer rfl hx hs :)
  | ctlIdle k _ hn =>
    obtain ⟨rfl, he⟩ := takesTxStep_ctl htakes
    exact absurd he (Bool.eq_false_iff.1 (hn .txHalt (by decide)))
  | _ => cases htakes

/-- A move that is a step of RX brings an RX that can take no byte nearer to its end. -/
theorem MoveEffect.rx_nearer {m : Move} {s t : State} (h : MoveEffect s t m) (hb : s.rxbEnabled = false)
    (htakes : s.takesRxStep m = true) : Nearer s.rxDistance t.rxDistance := by
  cases h with
  | rxStep ans i ht hx =>
    rcases rxTakes_kind ht with hi | rfl | rfl
    · exact (exec_rx_nearer hi hx hb :)
    · exact absurd hx (exec_not_next_of_reserved (by decide))
    · exact absurd hx (exec_not_next_of_reserved (by decide))
  | rxWait ans _ hn =>
    have hcan : s.rxCanStep = true := htakes
    rw [State.rxCanStep, hn] at hcan
    cases hcan
  | ctlStep k i hd _ hx =>
    rcases takesRxStep_ctl htakes with ⟨rfl, -⟩ | ⟨rfl, -⟩
    · obtain rfl : i = .rxIncomplete := Option.some.inj (hd.symm.trans (by decide))
      exact (exec_rx_nearer rfl hx hb :)
    · obtain rfl : i = .rxHalt := Option.some.inj (hd.symm.trans (by decide))
      exact (exec_rx_nearer rfl hx hb :)
  | ctlIdle k _ hn =>
    rcases takesRxStep_ctl htakes with ⟨rfl, he⟩ | ⟨rfl, he⟩
    · exact absurd he (Bool.eq_false_iff.1 (hn .rxIncomplete (by decide)))
    · exact absurd he (Bool.eq_false_iff.1 (hn .rxHalt (by decide)))
  | _ => cases htakes

end Sys2Proof.Machine
end

section
/-! SUPPORT. Fair executions after a stop request (70_reset_and_hazards.md R182, R186): each direction that can always
take a step until it ends does end, and an RX that is fed for ever inside one decode call does not. -/

namespace Sys2Proof.Machine

/-- With `stop` set a RUNNING TX can always step: TX_HALT at TX_IDLE, a byte step elsewhere. -/
theorem txCanStep_of_stop {s : State} (hm : s.tx_mode = Mode.RUNNING) (hs : s.stop = true) : s.txCanStep = true := by
  by_cases hst : s.tx_st = TxSt.TX_IDLE
  · obtain ⟨_, hw, -⟩ := txTakes_txHalt ((txHaltEnabled_iff s).2 ⟨hm, hst, hs⟩)
    exact Option.isSome_of_eq_some hw
  · obtain ⟨_, -, hd⟩ := decode_txbWord s
    obtain ⟨_, hw, -⟩ := txTakes_of_byte hm hst hd
    exact Option.isSome_of_eq_some hw

/-- With `stop` set a RUNNING RX that can take no byte can step: RX_HALT at the stop-sample point, RX_INCOMPLETE
elsewhere. -/
theorem rxCanStep_of_stop {s : State} (hm : s.rx_mode = Mode.RUNNING) (hs : s.stop = true)
    (hb : s.rxbEnabled = false) : s.rxCanStep = true := by
  cases hpoll : s.rx_poll with
  | true =>
    obtain ⟨_, hw, -⟩ := rxTakes_rxHalt ((rxHaltEnabled_iff s).2 ⟨hm, hpoll, hs⟩)
    exact Option.isSome_of_eq_some hw
  | false =>
    have hsilent : s.link_in = [] := by
      by_contra hl
      exact Bool.eq_false_iff.1 hb ((rxbEnabled_iff s).2 ⟨hm, hl, .inl hpoll⟩)
    obtain ⟨_, hw, -⟩ := rxTakes_rxIncomplete ((rxIncompleteEnabled_iff s).2 ⟨hm, hpoll, hsilent⟩)
    exact Option.isSome_of_eq_some hw

theorem rxbEnabled_of_silent {s : State} (hl : s.link_in = []) : s.rxbEnabled = false := by
  rw [Bool.eq_false_iff, ne_eq, rxbEnabled_iff]
  exact fun ⟨_, hne, _⟩ => hne hl

/-- With `stop` set RX takes no byte at the stop-sample point, nor after it has ended. -/
theorem rxbEnabled_of_stop {s : State} (hs : s.stop = true) (h : s.rx_mode = Mode.RUNNING → s.rx_poll = true) :
    s.rxbEnabled = false := by
  rw [Bool.eq_false_iff, ne_eq, rxbEnabled_iff]
  rintro ⟨hm, -, hpoll | hstop⟩
  · simp [h hm] at hpoll
  · simp [hs] at hstop

section Execution

variable {σ : Nat → Move} {r : Nat → State} {n : Nat}

theorem IsExecution.effect (he : IsExecution σ r) (m : Nat) : MoveEffect (r m) (r (m + 1)) (σ m) :=
  takeMove_effect (he m)

/-- A stop request lasts until RESET. -/
theorem IsExecution.stop_persists (he : IsExecution σ r) (hstop : (r n).stop = true)
    (hreset : ∀ m, n ≤ m → σ m ≠ .ctl 0x0) {m : Nat} (hm : n ≤ m) : (r m).stop = true := by
  induction m, hm using Nat.le_induction with
  | base => exact hstop
  | succ m hm ih => exact (he.effect m).keeps_stop (hreset m hm) ih

/-- A fair TX ends for good after a stop request. -/
theorem IsExecution.tx_ends (he : IsExecution σ r) (hf : TxFair σ r) (hstop : (r n).stop = true)
    (hreset : ∀ m, n ≤ m → σ m ≠ .ctl 0x0) : ∃ k, n ≤ k ∧ ∀ m, k ≤ m → (r m).tx_mode ≠ Mode.RUNNING := by
  refine ends_of_nearer (d := fun m => (r m).txDistance) (fun m hm => ?_) (fun m hm hrun => ?_)
  · exact (he.effect m).txDistance (hreset m hm) (he.stop_persists hstop hreset hm)
  · obtain ⟨j, hj, htakes⟩ := hf m fun j hj =>
      txCanStep_of_stop (hrun j hj) (he.stop_persists hstop hreset (hm.trans hj))
    exact ⟨j, hj, (he.effect j).tx_nearer (he.stop_persists hstop hreset (hm.trans hj)) htakes⟩

/-- Once a decode call has returned after a stop request, RX takes no byte any more. -/
theorem IsExecution.rxbEnabled_of_poll (he : IsExecution σ r) (hstop : (r n).stop = true)
    (hreset : ∀ m, n ≤ m → σ m ≠ .ctl 0x0) (hpoll : (r n).rx_poll = true) {m : Nat} (hm : n ≤ m) :
    (r m).rxbEnabled = false := by
  refine rxbEnabled_of_stop (he.stop_persists hstop hreset hm) ?_
  induction m, hm using Nat.le_induction with
  | base => exact fun _ => hpoll
  | succ m hm ih =>
    intro hrun
    have hb := rxbEnabled_of_stop (he.stop_persists hstop hreset hm) ih
    rcases (he.effect m).rxDistance (hreset m hm) hb with heq | ⟨hm', hend | hlt⟩
    · obtain ⟨hmode, hsame⟩ := rxDistance_eq_iff.1 heq
      exact hsame.trans (ih (hmode ▸ hrun))
    · exact absurd hrun hend
    · simp [State.rxDistance, ih hm'] at hlt

/-- A fair RX that takes no byte ends for good after a stop request. -/
theorem IsExecution.rx_ends (he : IsExecution σ r) (hf : RxFair σ r) (hstop : (r n).stop = true)
    (hreset : ∀ m, n ≤ m → σ m ≠ .ctl 0x0) (hb : ∀ m, n ≤ m → (r m).rxbEnabled = false) :
    ∃ k, n ≤ k ∧ ∀ m, k ≤ m → (r m).rx_mode ≠ Mode.RUNNING := by
  refine ends_of_nearer (d := fun m => (r m).rxDistance) (fun m hm => ?_) (fun m hm hrun => ?_)
  · exact (he.effect m).rxDistance (hreset m hm) (hb m hm)
  · obtain ⟨j, hj, htakes⟩ := hf m fun j hj =>
      rxCanStep_of_stop (hrun j hj) (he.stop_persists hstop hreset (hm.trans hj)) (hb j (hm.trans hj))
    exact ⟨j, hj, (he.effect j).rx_nearer (hb j (hm.trans hj)) htakes⟩

end Execution

/-! ### RX without the premise -/

/-- At even positions the far end sends a byte of noise, at odd ones RX has its turn. -/
def fedMoves (m : Nat) : Move := if m.bodd then .rx .ok else .appendLinkIn [0x55]

/-- The block under `fedMoves`: a stop request, TX halted, and RX inside one decode call, which drops every byte it
is sent. -/
def fedStates (m : Nat) : State :=
  { State.reset with
    stop := true, held := false, tx_mode := Mode.STOPPED, rx_poll := false, link_in := if m.bodd then [0x55] else [] }

theorem fedStates_isExecution : IsExecution fedMoves fedStates := by
  intro m
  simp only [fedMoves, fedStates, Nat.bodd_succ]
  cases m.bodd <;> rfl

theorem fedStates_weaklyFair : WeaklyFair fedMoves fedStates := by
  refine ⟨fun n _ => ⟨2 * n + 1, by omega, ?_⟩, fun n h => absurd (h n le_rfl) ?_⟩
  · have hodd : (2 * n + 1).bodd = true := by simp
    simp only [fedMoves, fedStates, hodd]
    rfl
  · simp only [fedStates]
    cases n.bodd <;> decide

/-- Settles O60: a stop request lasts, each step a direction then takes brings it nearer to its end, and fairness makes
it take them; RX takes no byte once a decode call has returned or while the link is silent. Fed for ever with noise,
it stays inside one decode call. -/
theorem fairExecutionsHonourStop : Obligations.FairExecutionsHonourStop := by
  unfold Obligations.FairExecutionsHonourStop
  refine ⟨fun σ r n he ⟨hrx, htx⟩ hstop hreset => ⟨he.tx_ends htx hstop hreset, ?_⟩,
    fedMoves, fedStates, fedStates_isExecution, fedStates_weaklyFair, fun _ => ⟨rfl, rfl⟩⟩
  rintro (⟨m, hm, hpoll⟩ | ⟨m, hsilent⟩)
  · have hstop' := he.stop_persists hstop hreset hm
    have hreset' := fun j hj => hreset j (hm.trans hj)
    obtain ⟨k, hk, hend⟩ := he.rx_ends hrx hstop' hreset' fun j => he.rxbEnabled_of_poll hstop' hreset' hpoll
    exact ⟨k, hm.trans hk, hend⟩
  · have hn := le_max_left n m
    obtain ⟨k, hk, hend⟩ := he.rx_ends hrx (he.stop_persists hstop hreset hn) (fun j hj => hreset j (hn.trans hj))
      fun j hj => rxbEnabled_of_silent (hsilent j ((le_max_right n m).trans hj))
    exact ⟨k, hn.trans hk, hend⟩

end Sys2Proof.Machine
end

section
/-! SUPPORT. A step that an agent chooses completes only where it is the step its agent selects (43_inbound_reader.md
R127, 44_outbound_writer.md R150), and it writes its own direction's half of the state alone. -/

namespace Sys2Proof.Machine

section Selected

variable {s t : State} {i j : Instr}

/-- What RX selects, with what enables it. -/
theorem rxTakes_cases (h : s.rxTakes i) :
    (i = .rxHalt ∧ s.rxHaltEnabled = true) ∨ (i = .rxIncomplete ∧ s.rxIncompleteEnabled = true) ∨
      ∃ b rest, TakesByte s b rest ∧ decodeRxb (s.rxbWord b) = some i := by
  obtain ⟨w, hw, hd⟩ := h
  rcases rxSelect_cases hw with ⟨rfl, he⟩ | ⟨rfl, he⟩ | ⟨b, rest, hl, he, rfl⟩
  · exact .inl ⟨(Except.ok.inj hd).symm, he⟩
  · exact .inr (.inl ⟨(Except.ok.inj hd).symm, he⟩)
  · exact .inr (.inr ⟨b, rest, takesByte_of_enabled hl he, decode_rxb_eq_ok_iff.1 hd⟩)

/-- What TX selects, with what enables it. -/
theorem txTakes_cases (h : s.txTakes i) :
    (i = .txHalt ∧ s.txHaltEnabled = true) ∨
      (decodeTxb s.txbWord = some i ∧ (s.fetchEnabled = true ∨ s.txByteEnabled = true)) := by
  obtain ⟨w, hw, hd⟩ := h
  rcases txSelect_cases hw with ⟨rfl, he⟩ | ⟨rfl, he⟩
  · exact .inl ⟨(Except.ok.inj hd).symm, he⟩
  · exact .inr ⟨decode_txb_eq_ok_iff.1 hd, he⟩

/-- An agent that selects a step is RUNNING. -/
theorem rx_running_of_takes (h : s.rxTakes i) : s.rx_mode = Mode.RUNNING := by
  rcases rxTakes_cases h with ⟨-, he⟩ | ⟨-, he⟩ | ⟨b, rest, hb, -⟩
  · exact ((rxHaltEnabled_iff s).1 he).1
  · exact ((rxIncompleteEnabled_iff s).1 he).1
  · exact hb.running

theorem tx_running_of_takes (h : s.txTakes i) : s.tx_mode = Mode.RUNNING := by
  rcases txTakes_cases h with ⟨-, he⟩ | ⟨-, he | he⟩
  · exact ((txHaltEnabled_iff s).1 he).1
  · exact ((fetchEnabled_iff s).1 he).1
  · exact ((txByteEnabled_iff s).1 he).1

/-- A step of RX that completes is the one RX selects. -/
theorem rxTakes_of_exec (hi : i.ofRx = true) (hx : exec i s = .next t) : s.rxTakes i := by
  cases i with
  | rxHalt => exact rxTakes_rxHalt (exec_rxHalt_next hx).1
  | rxIncomplete => exact rxTakes_rxIncomplete (exec_rxIncomplete_next hx).1
  | inDrop | inSof | inAddr | inLen0 | inLen | inPay | inPaylast | inCrcbad | inDeliver | inUnroutable =>
    rw [exec] at hx
    obtain ⟨b, rest, hl, he, hd, -⟩ := rxbStep_next hx
    exact (takesByte_of_enabled hl he).takes hd
  | _ => cases hi

/-- A step of TX that completes is the one TX selects. -/
theorem txTakes_of_exec (hi : i.ofTx = true) (hx : exec i s = .next t) : s.txTakes i := by
  cases i with
  | txHalt => exact txTakes_txHalt (exec_txHalt_next hx).1
  | outFetch | outSfault =>
    rw [exec] at hx
    obtain ⟨a, -, he, hd, -⟩ := fetchStep_next hx
    exact txTakes_of_fetch he hd
  | outStart | outAddr | outLen | outPay | outPaylast | outCrc =>
    rw [exec] at hx
    obtain ⟨he, hd, -⟩ := txbStep_next hx
    obtain ⟨hm, hst⟩ := (txByteEnabled_iff s).1 he
    exact txTakes_of_byte hm hst hd
  | _ => cases hi

/-- One selector decodes to one instruction. -/
theorem selected_unique {sel : Option Selector} (hi : ∃ w, sel = some w ∧ decode w = .ok i)
    (hj : ∃ w, sel = some w ∧ decode w = .ok j) : i = j := by
  obtain ⟨w, rfl, hi⟩ := hi
  obtain ⟨v, hv, hj⟩ := hj
  cases hv
  exact Except.ok.inj (hi.symm.trans hj)

/-- After a step of RX, all but RX's half of the state and new records is as before. -/
theorem exec_rx_eq_withRxOf (hi : i.ofRx = true) (hx : exec i s = .next t) : ∃ w, t = s.withRxOf w := by
  have hs : s.withRxOf s.unlogged = s := RxAgree.withRxOf_eq (by constructor <;> rfl) rfl
  rw [← hs, exec_withRxOf (t := s) (x := s.unlogged) hi rfl rfl] at hx
  obtain ⟨w, -, rfl⟩ := mapNext_eq_next hx
  exact ⟨w, rfl⟩

/-- After a step of TX, all but TX's half of the state and new records is as before. -/
theorem exec_tx_eq_withTxOf (hi : i.ofTx = true) (hx : exec i s = .next t) : ∃ w, t = s.withTxOf w := by
  have hs : s.withTxOf s.unlogged = s := TxAgree.withTxOf_eq (by constructor <;> rfl) rfl rfl
  rw [← hs, exec_withTxOf (t := s) (x := s.unlogged) hi rfl rfl] at hx
  obtain ⟨w, -, rfl⟩ := mapNext_eq_next hx
  exact ⟨w, rfl⟩

end Selected

/-- Settles O57: a completed step is selected, and an agent has one selector in one state. -/
theorem stepCompletesOnlyWhenSelected : Obligations.StepCompletesOnlyWhenSelected := by
  unfold Obligations.StepCompletesOnlyWhenSelected
  exact ⟨fun _ _ _ => rxTakes_of_exec, fun _ _ _ => txTakes_of_exec, fun _ _ _ => selected_unique,
    fun _ _ _ => selected_unique⟩

end Sys2Proof.Machine
end

section
/-! SUPPORT. The TX invariant, one lemma for each state code, and that every step of TX keeps it (10_state.md R39). -/

namespace Sys2Proof.Machine

section Codes

variable {t : State}

theorem TxInv.of_start (hst : t.tx_st = TxSt.TX_START) (hf : t.tx_addr.toNat < t.cfg.n ∧ 1 ≤ t.tx_len.toNat)
    (h : t.tx_rem = t.tx_len ∧ t.tx_crc = t.cfg.algo.init) : TxInv t := by
  constructor <;> simp [hst, hf, h]

theorem TxInv.of_addr (hst : t.tx_st = TxSt.TX_ADDR) (hf : t.tx_addr.toNat < t.cfg.n ∧ 1 ≤ t.tx_len.toNat)
    (h : t.tx_rem = t.tx_len ∧ t.tx_crc = t.cfg.algo.init) : TxInv t := by
  constructor <;> simp [hst, hf, h]

theorem TxInv.of_len (hst : t.tx_st = TxSt.TX_LEN) (hf : t.tx_addr.toNat < t.cfg.n ∧ 1 ≤ t.tx_len.toNat)
    (h : t.tx_rem = t.tx_len ∧ t.tx_crc = crcUpdate t.cfg.algo t.cfg.algo.init t.tx_addr) : TxInv t := by
  constructor <;> simp [hst, hf, h]

theorem TxInv.of_payload (hst : t.tx_st = TxSt.TX_PAYLOAD) (hf : t.tx_addr.toNat < t.cfg.n ∧ 1 ≤ t.tx_len.toNat)
    (h : 1 ≤ t.tx_rem.toNat ∧ t.tx_rem.toNat ≤ t.tx_len.toNat ∧
      t.tx_crc = crcRaw t.cfg.algo ([t.tx_addr, t.tx_len] ++ t.txSent)) : TxInv t where
  code := by simp [hst]
  frame _ := hf
  start := by simp [hst]
  addr := by simp [hst]
  len := by simp [hst]
  payload _ := h
  crc := by simp [hst]

theorem TxInv.of_crc (hst : t.tx_st = TxSt.TX_CRC) (hf : t.tx_addr.toNat < t.cfg.n ∧ 1 ≤ t.tx_len.toNat)
    (h : t.tx_rem = 0 ∧ t.tx_crc = crcRaw t.cfg.algo ([t.tx_addr, t.tx_len] ++ t.txSent)) : TxInv t where
  code := by simp [hst]
  frame _ := hf
  start := by simp [hst]
  addr := by simp [hst]
  len := by simp [hst]
  payload := by simp [hst]
  crc _ := h

end Codes

/-- The first `len - (rem - 1)` elements are the first `len - rem` and the next one. -/
theorem Memory.upTo_next (m : Memory) {len rem : Nat} (hpos : 1 ≤ rem) (hle : rem ≤ len) :
    m.upTo (len - (rem - 1)) = m.upTo (len - rem) ++ [m.read (len - rem)] := by
  rw [show len - (rem - 1) = len - rem + 1 by omega, Memory.upTo_succ]

/-- The register after the next payload byte is sent: that of the header and all payload bytes then sent. -/
theorem TxInv.crc_next {s : State} (h : TxInv s) (hst : s.tx_st = TxSt.TX_PAYLOAD) :
    crcUpdate s.cfg.algo s.tx_crc (s.tx_buf.read (s.tx_len.toNat - s.tx_rem.toNat)) =
      crcRaw s.cfg.algo ([s.tx_addr, s.tx_len] ++ s.tx_buf.upTo (s.tx_len.toNat - (s.tx_rem.toNat - 1))) := by
  obtain ⟨hpos, hle, hcrc⟩ := h.payload hst
  rw [Memory.upTo_next _ hpos hle, crcRaw_header_snoc, hcrc, State.txSent]

/-- Every step of TX keeps the TX invariant; only a fetch needs that the endpoint's number fits a byte. -/
theorem exec_tx_keeps_txInv {i : Instr} {s t : State} (hi : i.ofTx = true) (h : TxInv s)
    (hn : s.tx_st = TxSt.TX_IDLE → s.cfg.n ≤ 256) (hx : exec i s = .next t) : TxInv t := by
  cases i with
  | outFetch =>
    obtain ⟨a, ha, hf, -, rfl⟩ := exec_outFetch_next hx
    obtain ⟨-, hst, -, -⟩ := (fetchEnabled_iff s).1 hf
    obtain ⟨hlt, hpos⟩ := fetchEndpoint_spec ha
    have haddr := endpointByte_toNat ha (hn hst)
    have hlen := lengthByte_toNat (chunkLen_le s a)
    exact .of_start rfl ⟨haddr.trans_lt hlt, (chunkLen_pos hpos).trans_eq hlen.symm⟩ ⟨rfl, rfl⟩
  | outSfault =>
    obtain ⟨a, -, -, -, rfl⟩ := exec_outSfault_next hx
    exact h.of_eq rfl rfl rfl rfl rfl rfl rfl
  | outStart =>
    obtain ⟨-, hst, rfl⟩ := exec_outStart_next hx
    exact .of_addr rfl (h.frame (by simp [hst])) (h.start hst)
  | outAddr =>
    obtain ⟨-, hst, rfl⟩ := exec_outAddr_next hx
    obtain ⟨hrem, hcrc⟩ := h.addr hst
    exact .of_len rfl (h.frame (by simp [hst])) ⟨hrem, by simp [hcrc]⟩
  | outLen =>
    obtain ⟨-, hst, rfl⟩ := exec_outLen_next hx
    obtain ⟨hrem, hcrc⟩ := h.len hst
    have hframe := h.frame (by simp [hst])
    refine .of_payload rfl hframe ⟨hrem ▸ hframe.2, le_of_eq (congrArg _ hrem), ?_⟩
    simp [State.txSent, hrem, hcrc, crcRaw]
  | outPay =>
    obtain ⟨-, hst, hne, hpos, hle, rfl⟩ := exec_outPay_next hx
    have hpred := toNat_sub_one hpos
    have hne := toNat_ne_one hne
    have hcrc := h.crc_next hst
    rw [← hpred] at hcrc
    exact .of_payload hst (h.frame (by simp [hst]))
      ⟨(show 1 ≤ (s.tx_rem - 1).toNat by omega), (show (s.tx_rem - 1).toNat ≤ s.tx_len.toNat by omega), hcrc⟩
  | outPaylast =>
    obtain ⟨-, hst, hone, hpos, hle, rfl⟩ := exec_outPaylast_next hx
    have hcrc := h.crc_next hst
    rw [show s.tx_rem.toNat - 1 = (0 : Byte).toNat by simp [hone]] at hcrc
    exact .of_crc rfl (h.frame (by simp [hst])) ⟨rfl, hcrc⟩
  | outCrc =>
    obtain ⟨-, -, rfl⟩ := exec_outCrc_next hx
    exact .of_idle rfl
  | txHalt =>
    obtain ⟨-, rfl⟩ := exec_txHalt_next hx
    exact h.of_eq rfl rfl rfl rfl rfl rfl rfl
  | _ => cases hi

end Sys2Proof.Machine
end

section
/-! SUPPORT. The bytes of a frame that TX has still to send (44_outbound_writer.md R136 to R141): each byte step sends
the first of them, so that a run of TX turns sends them all and ends at TX_IDLE. -/

namespace Sys2Proof.Machine

/-- The payload bytes not yet sent: `tx_buf[tx_len − tx_rem..tx_len)`. -/
def State.txUnsent (s : State) : List Byte := (s.tx_buf.upTo s.tx_len.toNat).drop (s.tx_len.toNat - s.tx_rem.toNat)

/-- The bytes q and the checksum byte that follows them. -/
def State.withChecksum (s : State) (q : List Byte) : List Byte :=
  q ++ [crcFinal s.cfg.algo (crcFold s.cfg.algo s.tx_crc q)]

/-- The bytes of the frame under way that TX has still to send. -/
def State.txRest (s : State) : List Byte :=
  if s.tx_st = TxSt.TX_START then Config.START :: s.withChecksum (s.tx_addr :: s.tx_len :: s.txUnsent)
  else if s.tx_st = TxSt.TX_ADDR then s.withChecksum (s.tx_addr :: s.tx_len :: s.txUnsent)
  else if s.tx_st = TxSt.TX_LEN then s.withChecksum (s.tx_len :: s.txUnsent)
  else if s.tx_st = TxSt.TX_PAYLOAD then s.withChecksum s.txUnsent
  else if s.tx_st = TxSt.TX_CRC then s.withChecksum []
  else []

section Rest

variable {s : State}

theorem txRest_start (h : s.tx_st = TxSt.TX_START) :
    s.txRest = Config.START :: s.withChecksum (s.tx_addr :: s.tx_len :: s.txUnsent) := by
  simp [State.txRest, h]

theorem txRest_addr (h : s.tx_st = TxSt.TX_ADDR) :
    s.txRest = s.withChecksum (s.tx_addr :: s.tx_len :: s.txUnsent) := by
  simp [State.txRest, h]

theorem txRest_len (h : s.tx_st = TxSt.TX_LEN) : s.txRest = s.withChecksum (s.tx_len :: s.txUnsent) := by
  simp [State.txRest, h]

theorem txRest_payload (h : s.tx_st = TxSt.TX_PAYLOAD) : s.txRest = s.withChecksum s.txUnsent := by
  simp [State.txRest, h]

theorem txRest_crc (h : s.tx_st = TxSt.TX_CRC) : s.txRest = s.withChecksum [] := by
  simp [State.txRest, h]

theorem txRest_idle (h : s.tx_st = TxSt.TX_IDLE) : s.txRest = [] := by
  simp [State.txRest, h]

theorem txUnsent_length_le : s.txUnsent.length ≤ 255 := by
  have hlen := s.tx_len.isLt
  simp only [State.txUnsent, List.length_drop, Memory.upTo_length]
  omega

/-- A whole frame has at most 259 bytes (44_outbound_writer.md R142). -/
theorem txRest_length_le : s.txRest.length ≤ 259 := by
  have hq := txUnsent_length_le (s := s)
  unfold State.txRest State.withChecksum
  split_ifs <;> simp <;> omega

/-- The first payload byte not yet sent is the element in hand. -/
theorem txUnsent_eq_cons {r : Nat} (hpos : 1 ≤ s.tx_rem.toNat) (hle : s.tx_rem.toNat ≤ s.tx_len.toNat)
    (hr : r = s.tx_rem.toNat - 1) :
    s.txUnsent = s.tx_buf.read (s.tx_len.toNat - s.tx_rem.toNat) ::
      (s.tx_buf.upTo s.tx_len.toNat).drop (s.tx_len.toNat - r) := by
  have hlt : s.tx_len.toNat - s.tx_rem.toNat < (s.tx_buf.upTo s.tx_len.toNat).length := by
    rw [Memory.upTo_length]; omega
  rw [State.txUnsent, List.drop_eq_getElem_cons hlt, Memory.upTo_getElem]
  congr 2
  omega

end Rest

/-- From s to t, TX has sent the bytes bs of its frame, and of all else has written its registers alone. -/
structure TxSent (s t : State) (bs : List Byte) : Prop where
  rest : s.txRest = bs ++ t.txRest
  link : t.link_out = s.link_out ++ bs
  mode : t.tx_mode = s.tx_mode
  buf : t.tx_buf = s.tx_buf
  sout : t.sout = s.sout
  log : t.log = s.log
  rx : RxAgree s t

theorem TxSent.refl (s : State) : TxSent s s [] :=
  ⟨rfl, (List.append_nil _).symm, rfl, rfl, rfl, rfl, by constructor <;> rfl⟩

theorem RxAgree.trans {s t u : State} (h : RxAgree s t) (h' : RxAgree t u) : RxAgree s u where
  cfg := h.cfg.trans h'.cfg
  stop := h.stop.trans h'.stop
  rx_mode := h.rx_mode.trans h'.rx_mode
  rx_st := h.rx_st.trans h'.rx_st
  rx_poll := h.rx_poll.trans h'.rx_poll
  rx_addr := h.rx_addr.trans h'.rx_addr
  rx_len := h.rx_len.trans h'.rx_len
  rx_rem := h.rx_rem.trans h'.rx_rem
  rx_crc := h.rx_crc.trans h'.rx_crc
  rx_buf := h.rx_buf.trans h'.rx_buf
  link_in := h.link_in.trans h'.link_in
  sin := h.sin.trans h'.sin

theorem TxSent.trans {s t u : State} {p q : List Byte} (h : TxSent s t p) (h' : TxSent t u q) :
    TxSent s u (p ++ q) where
  rest := by rw [h.rest, h'.rest, List.append_assoc]
  link := by rw [h'.link, h.link, List.append_assoc]
  mode := h'.mode.trans h.mode
  buf := h'.buf.trans h.buf
  sout := h'.sout.trans h.sout
  log := h'.log.trans h.log
  rx := h.rx.trans h'.rx

/-- A byte step of TX sends the first of the bytes still to be sent. -/
theorem exec_tx_sends {i : Instr} {s t : State} (hi : i.ofTx = true) (hst : s.tx_st ≠ TxSt.TX_IDLE)
    (hx : exec i s = .next t) : ∃ b, TxSent s t [b] := by
  have hrx := exec_tx_keeps_rx hi hx
  cases i with
  | outFetch =>
    obtain ⟨_, -, hf, -⟩ := exec_outFetch_next hx
    obtain ⟨-, hidle, -⟩ := (fetchEnabled_iff s).1 hf
    exact absurd hidle hst
  | outSfault =>
    obtain ⟨_, -, hf, -⟩ := exec_outSfault_next hx
    obtain ⟨-, hidle, -⟩ := (fetchEnabled_iff s).1 hf
    exact absurd hidle hst
  | outStart =>
    obtain ⟨-, hst, rfl⟩ := exec_outStart_next hx
    refine ⟨_, ?_, rfl, rfl, rfl, rfl, rfl, hrx⟩
    rw [txRest_start hst, txRest_addr rfl]
    rfl
  | outAddr =>
    obtain ⟨-, hst, rfl⟩ := exec_outAddr_next hx
    refine ⟨_, ?_, rfl, rfl, rfl, rfl, rfl, hrx⟩
    rw [txRest_addr hst, txRest_len rfl]
    rfl
  | outLen =>
    obtain ⟨-, hst, rfl⟩ := exec_outLen_next hx
    refine ⟨_, ?_, rfl, rfl, rfl, rfl, rfl, hrx⟩
    rw [txRest_len hst, txRest_payload rfl]
    rfl
  | outPay =>
    obtain ⟨-, hst, -, hpos, hle, rfl⟩ := exec_outPay_next hx
    refine ⟨_, ?_, rfl, rfl, rfl, rfl, rfl, hrx⟩
    rw [txRest_payload hst, txUnsent_eq_cons hpos hle (toNat_sub_one hpos), txRest_payload]
    · rfl
    · exact hst
  | outPaylast =>
    obtain ⟨-, hst, hone, hpos, hle, rfl⟩ := exec_outPaylast_next hx
    refine ⟨_, ?_, rfl, rfl, rfl, rfl, rfl, hrx⟩
    have hlast : (s.tx_buf.upTo s.tx_len.toNat).drop (s.tx_len.toNat - 0) = [] := List.drop_eq_nil_of_le (by simp)
    rw [txRest_payload hst, txUnsent_eq_cons hpos hle (r := 0) (by simp [hone]), hlast, txRest_crc rfl]
    rfl
  | outCrc =>
    obtain ⟨-, hst, rfl⟩ := exec_outCrc_next hx
    refine ⟨_, ?_, rfl, rfl, rfl, rfl, rfl, hrx⟩
    rw [txRest_crc hst, txRest_idle rfl]
    rfl
  | txHalt =>
    obtain ⟨he, -⟩ := exec_txHalt_next hx
    obtain ⟨-, hidle, -⟩ := (txHaltEnabled_iff s).1 he
    exact absurd hidle hst
  | _ => cases hi

/-- A step of TX that completes is a fetch attempt or TX_HALT, or sends a byte. -/
theorem exec_tx_kinds {i : Instr} {s t : State} (hi : i.ofTx = true) (hx : exec i s = .next t) :
    i = .outFetch ∨ i = .outSfault ∨ i = .txHalt ∨ ∃ b, TxSent s t [b] := by
  cases i with
  | outFetch => exact .inl rfl
  | outSfault => exact .inr (.inl rfl)
  | txHalt => exact .inr (.inr (.inl rfl))
  | outStart | outAddr | outLen | outPay | outPaylast | outCrc =>
    have hbyte := hx
    rw [exec] at hbyte
    obtain ⟨he, -, -⟩ := txbStep_next hbyte
    exact .inr (.inr (.inr (exec_tx_sends hi ((txByteEnabled_iff s).1 he).2 hx)))
  | _ => cases hi

/-- At TX_IDLE the word TX forms is that of a fetch attempt, with an endpoint to serve. -/
theorem fetchEndpoint_of_idle {s : State} (he : s.fetchEnabled = true ∨ s.txByteEnabled = true)
    (hst : s.tx_st = TxSt.TX_IDLE) : ∃ a, s.fetchEndpoint = some a ∧ s.fetchEnabled = true := by
  have hf : s.fetchEnabled = true := he.resolve_right fun hb => ((txByteEnabled_iff s).1 hb).2 hst
  obtain ⟨-, -, -, ha⟩ := (fetchEnabled_iff s).1 hf
  obtain ⟨a, ha⟩ := Option.isSome_iff_exists.1 ha
  exact ⟨a, ha, hf⟩

/-- No TXB word is TX_HALT's. -/
theorem decodeTxb_ne_txHalt : ∀ w : TxbWord, decodeTxb w ≠ some .txHalt := by decide

/-- Where the TX invariant holds, the step TX selects completes. -/
theorem TxInv.exec_next {s : State} {i : Instr} (h : TxInv s) (hi : s.txTakes i) : ∃ t, exec i s = .next t := by
  have hm := tx_running_of_takes hi
  rcases txTakes_cases hi with ⟨rfl, he⟩ | ⟨hd, he⟩
  · exact ⟨_, if_pos he⟩
  cases i with
  | outFetch =>
    obtain ⟨a, ha, hf⟩ := fetchEndpoint_of_idle he ((txbWord_outFetch s).1 hd).1
    exact ⟨_, fetchStep_eq ha hf hd⟩
  | outSfault =>
    obtain ⟨a, ha, hf⟩ := fetchEndpoint_of_idle he ((txbWord_outSfault s).1 hd).1
    exact ⟨_, fetchStep_eq ha hf hd⟩
  | outStart => exact ⟨_, (txTakes_exec_outStart hm ((txbWord_outStart s).1 hd)).2⟩
  | outAddr => exact ⟨_, (txTakes_exec_outAddr hm ((txbWord_outAddr s).1 hd)).2⟩
  | outLen => exact ⟨_, (txTakes_exec_outLen hm ((txbWord_outLen s).1 hd)).2⟩
  | outCrc => exact ⟨_, (txTakes_exec_outCrc hm ((txbWord_outCrc s).1 hd)).2⟩
  | outPay =>
    obtain ⟨hst, hne⟩ := (txbWord_outPay s).1 hd
    obtain ⟨hpos, hle, -⟩ := h.payload hst
    have hne := toNat_ne_one hne
    exact ⟨_, (txTakes_exec_outPay hm hst (by omega) hle).2⟩
  | outPaylast =>
    obtain ⟨hst, hone⟩ := (txbWord_outPaylast s).1 hd
    obtain ⟨-, hlen⟩ := h.frame (by simp [hst])
    exact ⟨_, (txTakes_exec_outPaylast hm hst hone hlen).2⟩
  | txHalt => exact absurd hd (decodeTxb_ne_txHalt _)
  | txReserved => exact absurd hi h.not_takes_reserved
  | _ => exact absurd (txTakes_kind hi) (by decide)

/-- Inside a frame TX has a step, which completes, keeps the invariant and sends a byte. -/
theorem TxInv.sends {s : State} (h : TxInv s) (hm : s.tx_mode = Mode.RUNNING) (hst : s.tx_st ≠ TxSt.TX_IDLE) :
    ∃ i t b, s.txTakes i ∧ exec i s = .next t ∧ TxInv t ∧ TxSent s t [b] ∧ t.agenda = s.agenda := by
  obtain ⟨i, -, hd⟩ := decode_txbWord s
  have htakes := txTakes_of_byte hm hst hd
  have hi : i.ofTx = true := (txTakes_kind htakes).resolve_right fun hi => h.not_takes_reserved (hi ▸ htakes)
  obtain ⟨t, hx⟩ := h.exec_next htakes
  obtain ⟨b, hsent⟩ := exec_tx_sends hi hst hx
  obtain ⟨w, hw⟩ := exec_tx_eq_withTxOf hi hx
  exact ⟨i, t, b, htakes, hx, exec_tx_keeps_txInv hi h (fun h => absurd h hst) hx, hsent, hw ▸ rfl⟩

/-- A turn of TX inside a frame sends the first of the bytes still to be sent. -/
theorem step_tx_sends {s : State} {p : Nat} {ans : ReadAnswer} {ms : List Move} (h : TxInv s)
    (hm : s.tx_mode = Mode.RUNNING) (hst : s.tx_st ≠ TxSt.TX_IDLE) (ha : s.agenda = .tx p ans :: ms) :
    ∃ t b, step s = .next t ∧ TxInv t ∧ TxSent s t [b] ∧ t.agenda = ms := by
  have hturn : TxInv { s with agenda := ms, pick := p, r_ans := ans, held := false } :=
    h.of_eq rfl rfl rfl rfl rfl rfl rfl
  obtain ⟨i, t, b, htakes, hx, hinv, hsent, hagenda⟩ := hturn.sends hm hst
  exact ⟨t, b, (step_tx_takes ha htakes).trans hx, hinv, { hsent with rx := { hsent.rx with } }, hagenda⟩

/-- TX turns send the bytes of the frame under way, all of them, and end at TX_IDLE. -/
theorem run_txRest {s : State} {a : Nat} {ms : List Move} (h : TxInv s) (hm : s.tx_mode = Mode.RUNNING)
    (ha : s.agenda = txTurns s.txRest.length a ++ ms) :
    ∃ t, run s.txRest.length s = .next t ∧ TxSent s t s.txRest ∧ t.tx_st = TxSt.TX_IDLE ∧ t.agenda = ms := by
  generalize hq : s.txRest = q at ha ⊢
  induction q generalizing s with
  | nil =>
    have hst : s.tx_st = TxSt.TX_IDLE := by
      by_contra hst
      obtain ⟨_, t, b, -, -, -, hsent, -⟩ := h.sends hm hst
      exact absurd (hq.symm.trans hsent.rest) (by simp)
    exact ⟨s, rfl, .refl s, hst, ha⟩
  | cons b q ih =>
    have hst : s.tx_st ≠ TxSt.TX_IDLE := fun hst => by simp [txRest_idle hst] at hq
    obtain ⟨t, c, hs, hinv, hsent, hagenda⟩ := step_tx_sends h hm hst ha
    obtain ⟨rfl, hrest⟩ := List.cons.inj (hq.symm.trans hsent.rest)
    obtain ⟨u, hu, hsent', hend, hms⟩ := ih hinv (hsent.mode.trans hm) hrest.symm hagenda
    exact ⟨u, (run_succ _ hs).trans hu, hsent.trans hsent', hend, hms⟩

/-! ### Halting -/

/-- A TX that has ended lets its turns pass. -/
theorem run_tx_ended {s : State} {a k : Nat} {ms : List Move} (hm : s.tx_mode = Mode.STOPPED)
    (ha : s.agenda = txTurns k a ++ ms) :
    ∃ p ans, run k s = .next { s with agenda := ms, pick := p, r_ans := ans } := by
  induction k generalizing s with
  | zero => exact ⟨s.pick, s.r_ans, congrArg Host.Outcome.next (by rw [← show s.agenda = ms from ha])⟩
  | succ k ih =>
    have hs := step_tx_waits (s := s) (ms := txTurns k a ++ ms) ha (by simp [hm])
      (by simp [State.txSelect, State.txHaltEnabled, State.fetchEnabled, State.txByteEnabled, hm])
    rw [run_succ k hs]
    exact ih hm rfl

/-- Settles O44: TX sends the rest of its frame, takes TX_HALT, and lets the turns left over pass. -/
theorem txHaltsWithinOneFrame : Obligations.TxHaltsWithinOneFrame := by
  unfold Obligations.TxHaltsWithinOneFrame
  intro s a ms h hm hstop ha
  have hle := txRest_length_le (s := s)
  obtain ⟨l, hl⟩ := Nat.exists_eq_add_of_le hle
  have hturns : 260 = s.txRest.length + (l + 1) := by omega
  rw [hturns, txTurns_add, List.append_assoc] at ha
  obtain ⟨t, ht, hsent, hidle, hagenda⟩ := run_txRest h hm ha
  have hmode := hsent.mode.trans hm
  have hhalt : t.txHaltEnabled = true := (txHaltEnabled_iff t).2 ⟨hmode, hidle, hsent.rx.stop ▸ hstop⟩
  have hs := (step_tx_takes (ms := txTurns l a ++ ms) hagenda (txTakes_txHalt hhalt)).trans (if_pos hhalt)
  obtain ⟨p, ans, hu⟩ := run_tx_ended (k := l) (a := a) (ms := ms) (s := { t with
    agenda := txTurns l a ++ ms, pick := a, r_ans := .ok, held := false, tx_mode := Mode.STOPPED }) rfl rfl
  rw [hturns, run_add _ ht, run_succ l hs, hu]
  exact ⟨_, _, rfl, rfl, hidle, rfl, hsent.link, hle, hsent.log, hsent.sout⟩

end Sys2Proof.Machine
end

section
/-! SUPPORT. A whole frame sent (44_outbound_writer.md R145): the fetch puts all bytes of the encoded frame under way,
and the byte steps send them. -/

namespace Sys2Proof.Machine

/-- s after a turn of TX that fetched a chunk of endpoint a, which answered OK. -/
def State.afterFetch (s : State) (a : Nat) (ms : List Move) : State :=
  { s with
    agenda := ms, pick := a, r_ans := .ok, held := false
    sout := s.sout.set a ((s.sout.get a).drop (s.chunkLen a)), tx_buf := s.tx_buf.writeFrom 0 (s.chunk a)
    tx_addr := BitVec.ofNat 8 a, tx_len := BitVec.ofNat 8 (s.chunkLen a), tx_rem := BitVec.ofNat 8 (s.chunkLen a)
    tx_crc := s.cfg.algo.init, tx_st := TxSt.TX_START }

section Fetch

variable {s : State} {a : Nat} {ms : List Move}

theorem ready_of_sout (ha : a < s.cfg.n) (hq : s.sout.get a ≠ []) : s.ready a = true := by
  simp [State.ready, State.streamAvail, ha, List.length_pos_iff.2 hq]

/-- At TX_IDLE with the endpoint preferred ready, and answering OK, TX fetches from it. -/
theorem txTakes_exec_outFetch (hm : s.tx_mode = Mode.RUNNING) (hst : s.tx_st = TxSt.TX_IDLE) (hstop : s.stop = false)
    (hr : s.ready s.pick = true) (hans : s.r_ans = .ok) :
    s.txTakes .outFetch ∧ exec .outFetch s = .next { s with
      sout := s.sout.set s.pick ((s.sout.get s.pick).drop (s.chunkLen s.pick)),
      tx_buf := s.tx_buf.writeFrom 0 (s.chunk s.pick), tx_addr := BitVec.ofNat 8 s.pick,
      tx_len := BitVec.ofNat 8 (s.chunkLen s.pick), tx_rem := BitVec.ofNat 8 (s.chunkLen s.pick),
      tx_crc := s.cfg.algo.init, tx_st := TxSt.TX_START } := by
  have hserve := fetchEndpoint_pick hr
  have hf := fetchEnabled_of_endpoint hm hst hstop hserve
  exact ⟨txTakes_of_fetch hf ((txbWord_outFetch s).2 ⟨hst, hans⟩), exec_outFetch hf hserve hans⟩

/-- A turn of TX at TX_IDLE that prefers a ready endpoint fetches from it, and the frame under way satisfies the
invariant. -/
theorem step_tx_fetch (hm : s.tx_mode = Mode.RUNNING) (hst : s.tx_st = TxSt.TX_IDLE) (hstop : s.stop = false)
    (hn : s.cfg.n ≤ 256) (hr : s.ready a = true) (ha : s.agenda = .tx a .ok :: ms) :
    step s = .next (s.afterFetch a ms) ∧ TxInv (s.afterFetch a ms) := by
  obtain ⟨htakes, hx⟩ := txTakes_exec_outFetch
    (s := { s with agenda := ms, pick := a, r_ans := .ok, held := false }) hm hst hstop hr rfl
  refine ⟨(step_tx_takes ha htakes).trans hx, exec_tx_keeps_txInv rfl ?_ (fun _ => ?_) hx⟩
  · exact .of_idle hst
  · exact hn

/-- After the fetch, all bytes of the encoded frame are still to be sent. -/
theorem afterFetch_txRest (hbuf : s.tx_buf.wf) :
    (s.afterFetch a ms).txRest = wireFrame s.cfg.algo (BitVec.ofNat 8 a) (s.chunk a) := by
  have hunsent : (s.afterFetch a ms).txUnsent = s.chunk a := by
    simp only [State.txUnsent, State.afterFetch, lengthByte_toNat (chunkLen_le s a), Nat.sub_self, List.drop_zero]
    exact upTo_writeFrom_chunk hbuf
  rw [txRest_start rfl, hunsent, wireFrame, frameOf, chunk_length]
  rfl

/-- From TX_IDLE with a ready endpoint preferred, a whole frame is sent. -/
theorem run_txFrame (hm : s.tx_mode = Mode.RUNNING) (hst : s.tx_st = TxSt.TX_IDLE) (hstop : s.stop = false)
    (hn : s.cfg.n ≤ 256) (hbuf : s.tx_buf.wf) (hr : s.ready a = true)
    (ha : s.agenda = txTurns (s.chunkLen a + 5) a ++ ms) :
    ∃ t, run (s.chunkLen a + 5) s = .next t ∧
      TxSent (s.afterFetch a (txTurns (s.chunkLen a + 4) a ++ ms)) t
        (wireFrame s.cfg.algo (BitVec.ofNat 8 a) (s.chunk a)) ∧ t.tx_st = TxSt.TX_IDLE ∧ t.agenda = ms := by
  obtain ⟨hs, hinv⟩ := step_tx_fetch (ms := txTurns (s.chunkLen a + 4) a ++ ms) hm hst hstop hn hr ha
  have hrest := afterFetch_txRest (a := a) (ms := txTurns (s.chunkLen a + 4) a ++ ms) hbuf
  have hlen := (congrArg List.length hrest).trans ((wireFrame_length _ _ _).trans (by rw [chunk_length]))
  obtain ⟨t, ht, hsent, hend⟩ := run_txRest (a := a) (ms := ms) hinv hm (by rw [hlen]; rfl)
  rw [hlen] at ht
  exact ⟨t, (run_succ _ hs).trans ht, hrest ▸ hsent, hend⟩

end Fetch

/-- Settles O42: the frame `run_txFrame` sends is what the encoder answers for the chunk. -/
theorem serializerSendsEncodedFrame : Obligations.SerializerSendsEncodedFrame := by
  unfold Obligations.SerializerSendsEncodedFrame
  intro s a c ms hm hst hstop hn hbuf hsout ha hq hc hturns
  obtain rfl : c = s.chunkLen a := hc
  have hpos := chunkLen_pos (List.length_pos_iff.2 hq)
  obtain ⟨t, ht, hsent, hidle, hagenda⟩ := run_txFrame hm hst hstop hn hbuf (ready_of_sout ha hq) hturns
  have hget : t.sout = s.sout.set a ((s.sout.get a).drop (s.chunkLen a)) := hsent.sout
  refine ⟨t, _, ht, encodeFrame_of_length ?_ ?_, hsent.link, hidle, hsent.mode.trans hm, ?_, ?_, hsent.log,
    hsent.rx.stop.symm.trans hstop, hsent.rx.cfg.symm, hagenda, { hsent.rx with }⟩
  · exact hpos.trans_eq (chunk_length s a).symm
  · exact (chunk_length s a).trans_le (chunkLen_le s a)
  · rw [hget, Streams.get_set_same hsout]
  · intro a' ha'
    rw [hget, Streams.get_set_other hsout ha']

end Sys2Proof.Machine
end

section
/-! SUPPORT. A logical write sent in chunks (44_outbound_writer.md R146): the chunks by recursion on the write, and the
induction over them. -/

namespace Sys2Proof.Machine

theorem chunkCount_eq_zero {q : List Byte} (h : chunkCount q.length = 0) : q = [] := by
  simp only [chunkCount, Config.MAXLEN] at h
  exact List.eq_nil_of_length_eq_zero (by omega)

theorem chunkCount_drop {q : List Byte} (hq : q ≠ []) :
    chunkCount q.length = chunkCount (q.drop 255).length + 1 := by
  have hpos := List.length_pos_iff.2 hq
  simp only [chunkCount, Config.MAXLEN, List.length_drop]
  omega

/-- The first chunk is the first 255 bytes, and the others are the chunks of the rest. -/
theorem chunksOf_eq_cons {q : List Byte} (hq : q ≠ []) : chunksOf q = q.take 255 :: chunksOf (q.drop 255) := by
  simp only [chunksOf, chunkCount_drop hq, List.range_succ_eq_map, List.map_cons, List.map_map, List.drop_drop,
    Config.MAXLEN]
  congr 1
  refine List.map_congr_left fun i _ => ?_
  simp [Nat.mul_add, Nat.add_comm]

theorem chunksOf_nil : chunksOf [] = [] := rfl

/-- The chunks concatenate to the write: induction on their number. -/
theorem chunksOf_flatten (q : List Byte) : (chunksOf q).flatten = q := by
  induction hn : chunkCount q.length generalizing q with
  | zero => rw [chunkCount_eq_zero hn, chunksOf_nil, List.flatten_nil]
  | succ n ih =>
    have hq : q ≠ [] := fun h => by simp [h, chunkCount] at hn
    rw [chunkCount_drop hq] at hn
    rw [chunksOf_eq_cons hq, List.flatten_cons, ih _ (Nat.succ.inj hn), List.take_append_drop]

/-- The first chunk of a queue is the chunk that a fetch takes from it. -/
theorem chunk_eq_take (s : State) (a : Nat) : s.chunk a = (s.sout.get a).take 255 := by
  rw [State.chunk, State.chunkLen, State.streamAvail, Nat.min_comm]
  exact List.take_eq_take_min.symm

theorem drop_chunkLen (s : State) (a : Nat) : (s.sout.get a).drop (s.chunkLen a) = (s.sout.get a).drop 255 := by
  rw [State.chunkLen, State.streamAvail, Nat.min_comm]
  exact List.drop_eq_drop_min.symm

/-- TX turns that prefer a send all of its queue, chunk by chunk: induction on the number of chunks. -/
theorem run_txChunks {s : State} {a : Nat} {ms : List Move} (hm : s.tx_mode = Mode.RUNNING)
    (hst : s.tx_st = TxSt.TX_IDLE) (hstop : s.stop = false) (hn : s.cfg.n ≤ 256) (hbuf : s.tx_buf.wf)
    (hsout : s.sout.wf) (ha : a < s.cfg.n)
    (hturns : s.agenda = txTurns ((s.sout.get a).length + 5 * chunkCount (s.sout.get a).length) a ++ ms) :
    ∃ t, run ((s.sout.get a).length + 5 * chunkCount (s.sout.get a).length) s = .next t ∧
      t.link_out = s.link_out ++
        ((chunksOf (s.sout.get a)).map (wireFrame s.cfg.algo (BitVec.ofNat 8 a))).flatten ∧
      t.sout.get a = [] ∧ t.tx_st = TxSt.TX_IDLE ∧ t.agenda = ms := by
  induction hcount : chunkCount (s.sout.get a).length generalizing s with
  | zero =>
    have hq := chunkCount_eq_zero hcount
    rw [hq] at hturns ⊢
    exact ⟨s, rfl, (List.append_nil _).symm, hq, hst, hturns⟩
  | succ k ih =>
    have hq : s.sout.get a ≠ [] := fun h => by simp [h, chunkCount] at hcount
    have hrest : chunkCount ((s.sout.get a).drop 255).length = k :=
      Nat.succ.inj ((chunkCount_drop hq).symm.trans hcount)
    have hlen : (s.sout.get a).length + 5 * (k + 1) =
        s.chunkLen a + 5 + (((s.sout.get a).drop 255).length + 5 * k) := by
      rw [List.length_drop, State.chunkLen, State.streamAvail, Config.MAXLEN]
      omega
    rw [hcount, hlen, txTurns_add, List.append_assoc] at hturns
    obtain ⟨t, ht, hsent, hidle, hagenda⟩ := run_txFrame hm hst hstop hn hbuf (ready_of_sout ha hq) hturns
    have hcfg : t.cfg = s.cfg := hsent.rx.cfg.symm
    have hq' : t.sout.get a = (s.sout.get a).drop 255 := by
      rw [hsent.sout]
      exact (Streams.get_set_same hsout).trans (drop_chunkLen s a)
    obtain ⟨u, hu, hlink, hend⟩ := ih (s := t) (hsent.mode.trans hm) hidle (hsent.rx.stop.symm.trans hstop)
      (hcfg ▸ hn) (hsent.buf ▸ Memory.writeFrom_wf hbuf) (hsent.sout ▸ Streams.set_wf hsout) (hcfg ▸ ha)
      (by rw [hagenda, hq', hrest]) (by rw [hq', hrest])
    rw [hq'] at hu hlink
    refine ⟨u, ?_, ?_, hend⟩
    · rw [hlen, run_add _ ht, hu]
    · rw [hlink, hsent.link, hcfg, chunksOf_eq_cons hq, chunk_eq_take, List.map_cons, List.flatten_cons,
        List.append_assoc]
      rfl

/-- Settles O43: `run_txChunks`, and the chunks counted and put together. -/
theorem chunkedWriteIsSentWhole : Obligations.ChunkedWriteIsSentWhole := by
  unfold Obligations.ChunkedWriteIsSentWhole
  intro s a ms hm hst hstop hn hbuf hsout ha hturns
  obtain ⟨t, ht, hlink, hempty, hidle, hagenda⟩ := run_txChunks hm hst hstop hn hbuf hsout ha hturns
  exact ⟨t, ht, hlink, hempty, hidle, hagenda, by simp [chunksOf, chunkCount], chunksOf_flatten _⟩

end Sys2Proof.Machine
end

section
/-! SUPPORT. A frame after noise (40_frame_codec.md R95, R97, R100). -/

namespace Sys2Proof.Machine

/-- Noise without a marker before `input`, none of it or any number of bytes, leaves RX where it reads `input`, with
every register but `rx_poll` as it was. -/
theorem run_noise_before {s : State} {noise input rest : List Byte} {ms : List Move}
    (h : RxReads s (noise ++ input) rest ms) (hst : s.rx_st = RxSt.AWAIT_START) (hn : ∀ b ∈ noise, b ≠ 0xAA) :
    ∃ t poll w held, run noise.length s = .next t ∧ RxReads t input rest ms ∧
      t = { s with
        link_in := input ++ rest, agenda := rxTurns input.length ++ ms, rx_poll := poll, w_ans := w
        held := held } := by
  have hlink := h.link
  have hturns := h.turns
  cases noise with
  | nil =>
    rw [List.nil_append] at hlink hturns
    exact ⟨s, s.rx_poll, s.w_ans, s.held, rfl, h, by rw [← hlink, ← hturns]⟩
  | cons b noise =>
    obtain ⟨hb, hn⟩ := List.forall_mem_cons.1 hn
    rw [List.append_assoc] at hlink
    rw [List.length_append, rxTurns_add, List.append_assoc] at hturns
    exact ⟨_, false, .ok, false, run_noise ⟨h.running, h.sampled, hlink, hturns⟩ hst hb hn,
      ⟨h.running, .inl rfl, rfl, rfl⟩, rfl⟩

/-- What a frame leaves: its payload at its endpoint where that is routable, else a record (40_frame_codec.md R90,
R91). -/
theorem afterFrame_outcome {s : State} {a l : Byte} {p rest : List Byte} {ms : List Move} (hbuf : s.rx_buf.wf)
    (hsin : s.sin.wf) (hl : l.toNat = p.length) :
    (a.toNat < s.cfg.n → (s.afterFrame a l p rest ms).log = s.log ∧
      (s.afterFrame a l p rest ms).sin.get a.toNat = s.sin.get a.toNat ++ p ∧
      ∀ c, c ≠ a.toNat → (s.afterFrame a l p rest ms).sin.get c = s.sin.get c) ∧
    (s.cfg.n ≤ a.toNat → (s.afterFrame a l p rest ms).sin = s.sin ∧
      (s.afterFrame a l p rest ms).log = s.log ++ [.unroutableAddress a l]) := by
  rw [afterFrame_log]
  refine ⟨fun hn => ⟨?_, ?_, fun c hc => ?_⟩, fun hn => ⟨?_, ?_⟩⟩
  · rw [if_neg (Nat.not_le.2 hn), List.append_nil]
  · rw [afterFrame_sin_get hbuf hsin hl, if_pos ⟨hn, rfl⟩]
  · rw [afterFrame_sin_get hbuf hsin hl, if_neg fun h => hc h.2.symm, List.append_nil]
  · rw [afterFrame_sin hbuf hl, if_neg (Nat.not_lt.2 hn)]
  · rw [if_pos hn]

/-- Settles O38: the noise is dropped, and `run_frame` receives the frame from there. -/
theorem encodedFrameIsReceivedAfterNoise : Obligations.EncodedFrameIsReceivedAfterNoise := by
  unfold Obligations.EncodedFrameIsReceivedAfterNoise
  intro s a p noise bytes tail ms hm hst hsampled hbuf hsin hnoise henc hlink hturns
  obtain ⟨hne, hmax, hlen, hbytes⟩ := encodeFrame_bytes henc
  obtain rfl : bytes = wireFrame s.cfg.algo a p := hbytes
  have hread : RxReads s (noise ++ wireFrame s.cfg.algo a p) tail ms :=
    ⟨hm, hsampled, hlink, by rw [hturns, List.length_append]⟩
  obtain ⟨t, poll, w, held, ht, hread, hquiet⟩ := run_noise_before hread hst hnoise
  have hcfg : t.cfg = s.cfg := by rw [hquiet]
  have hbuf : t.rx_buf.wf := by rwa [hquiet]
  have hsin : t.sin.wf := by rwa [hquiet]
  have hrun := (run_add _ ht).trans
    (run_frame (hcfg ▸ hread) (by rwa [hquiet]) (List.length_pos_iff.2 hne) hmax)
  obtain ⟨hroutable, hunroutable⟩ := afterFrame_outcome (a := a) (rest := tail) (ms := ms) hbuf hsin hlen
  subst hquiet
  rw [← wireFrame_length s.cfg.algo a] at hrun
  exact ⟨_, hrun, hm, rfl, rfl, rfl, rfl, rfl, rfl, by constructor <;> rfl, hroutable,
    fun hn => ⟨(hunroutable hn).1, _, hlen, (hunroutable hn).2⟩⟩

end Sys2Proof.Machine
end

section
/-! SUPPORT. One flipped bit (41_checksum.md R113, 90_conflicts.md C2): it changes the register of a message for good,
so a frame with one flipped bit outside START and LENGTH ends in a checksum mismatch. -/

namespace Sys2Proof.Machine

theorem xor_bit_ne (b : Byte) {k : Nat} (hk : k < 8) : b ^^^ ((1 : Byte) <<< k) ≠ b := by
  have hbit : ∀ k < 8, (1 : Byte) <<< k ≠ 0 := by decide
  intro h
  exact hbit k hk ((BitVec.xor_right_inj b).1 (h.trans BitVec.xor_zero.symm))

@[simp] theorem flipBit_zero (b : Byte) (s : List Byte) (k : Nat) :
    flipBit (b :: s) 0 k = (b ^^^ ((1 : Byte) <<< k)) :: s := rfl

@[simp] theorem flipBit_succ (b : Byte) (s : List Byte) (i k : Nat) :
    flipBit (b :: s) (i + 1) k = b :: flipBit s i k := rfl

theorem flipBit_length (s : List Byte) (i k : Nat) : (flipBit s i k).length = s.length := List.length_modify ..

/-- A flipped bit inside the first part leaves what follows alone. -/
theorem flipBit_append {s : List Byte} {i : Nat} (hi : i < s.length) (q : List Byte) (k : Nat) :
    flipBit (s ++ q) i k = flipBit s i k ++ q := by
  induction s generalizing i with
  | nil => exact absurd hi (Nat.not_lt_zero i)
  | cons b s ih =>
    cases i with
    | zero => rfl
    | succ i => simpa using ih (Nat.lt_of_succ_lt_succ hi)

theorem flipBit_last (s : List Byte) (c : Byte) (k : Nat) :
    flipBit (s ++ [c]) s.length k = s ++ [c ^^^ ((1 : Byte) <<< k)] := by
  induction s with
  | nil => rfl
  | cons b s ih => simpa using ih

/-- A flipped bit changes the register, and no byte that follows undoes it: induction on the message. -/
theorem crcFold_flipBit_ne {g : Crc8Algo} (hp : g.poly.getLsbD 0 = true) {m : List Byte} {i k : Nat}
    (hi : i < m.length) (hk : k < 8) (r : Byte) : crcFold g r (flipBit m i k) ≠ crcFold g r m := by
  induction m generalizing i r with
  | nil => exact absurd hi (Nat.not_lt_zero i)
  | cons b m ih =>
    cases i with
    | zero =>
      intro h
      have hupdate : crcUpdate g r (b ^^^ ((1 : Byte) <<< k)) = crcUpdate g r b := crcFold_injective_reg hp m h
      exact xor_bit_ne b hk (crcUpdate_injective_byte hp r hupdate)
    | succ i => exact ih (Nat.lt_of_succ_lt_succ hi) (crcUpdate g r b)

/-- A flipped bit changes the CRC8. -/
theorem crc8_flipBit_ne {g : Crc8Algo} (hp : g.poly.getLsbD 0 = true) {m : List Byte} {i k : Nat}
    (hi : i < m.length) (hk : k < 8) : crc8 g (flipBit m i k) ≠ crc8 g m :=
  fun h => crcFold_flipBit_ne hp hi hk g.init (crcFinal_injective g h)

/-- Settles O47: `crc8_flipBit_ne`. -/
theorem oneBitErrorChangesCrc : Obligations.OneBitErrorChangesCrc := by
  unfold Obligations.OneBitErrorChangesCrc
  exact fun _ _ _ _ hp hi hk => crc8_flipBit_ne hp hi hk

/-- One flipped bit in ADDRESS, PAYLOAD or CHECKSUM leaves the frame's shape and breaks its checksum. -/
theorem flipBit_wireFrame {g : Crc8Algo} (hp : g.poly.getLsbD 0 = true) {a : Byte} {p : List Byte} {i k : Nat}
    (hi : i < p.length + 4) (hstart : i ≠ 0) (hlength : i ≠ 2) (hk : k < 8) :
    ∃ a' p' c, flipBit (wireFrame g a p) i k = 0xAA :: a' :: BitVec.ofNat 8 p.length :: (p' ++ [c]) ∧
      p'.length = p.length ∧ c ≠ crc8 g ([a', BitVec.ofNat 8 p.length] ++ p') := by
  have hframe : wireFrame g a p = 0xAA :: a :: BitVec.ofNat 8 p.length ::
      (p ++ [crc8 g ([a, BitVec.ofNat 8 p.length] ++ p)]) := rfl
  rw [hframe]
  match i with
  | 0 => exact absurd rfl hstart
  | 1 =>
    refine ⟨_, p, _, rfl, rfl, Ne.symm ?_⟩
    exact crc8_flipBit_ne (m := [a, BitVec.ofNat 8 p.length] ++ p) (i := 0) hp (by simp) hk
  | 2 => exact absurd rfl hlength
  | j + 3 =>
    simp only [flipBit_succ]
    rcases Nat.lt_or_ge j p.length with hj | hj
    · refine ⟨a, flipBit p j k, _, by rw [flipBit_append hj], flipBit_length p j k, Ne.symm ?_⟩
      exact crc8_flipBit_ne (m := [a, BitVec.ofNat 8 p.length] ++ p) (i := j + 2) hp (by simpa using hj) hk
    · obtain rfl : j = p.length := by omega
      exact ⟨a, p, _, by rw [flipBit_last], rfl, xor_bit_ne _ hk⟩

/-- s after the byte c of a frame whose checksum does not match: the frame is reported. -/
def State.afterMismatch (s : State) (c : Byte) (rest : List Byte) (ms : List Move) : State :=
  { s with
    link_in := rest, agenda := ms, w_ans := .ok, held := false, rx_poll := true, rx_st := RxSt.AWAIT_START
    log := s.log ++ [.malformedChecksum s.rx_addr s.rx_len (crcFinal s.cfg.algo s.rx_crc) c] }

/-- The checksum byte of a frame whose checksum does not match (40_frame_codec.md R89). -/
theorem step_mismatch {s : State} {c : Byte} {rest : List Byte} {ms : List Move} (h : RxReads s [c] rest ms)
    (hst : s.rx_st = RxSt.READ_CHECKSUM) (hc : c ≠ crcFinal s.cfg.algo s.rx_crc) :
    step s = .next (s.afterMismatch c rest ms) :=
  (h.step_eq ((rxbWord_inCrcbad s c).2 ⟨hst, hc⟩)).trans (h.takesByte_inTurn.exec_inCrcbad hst hc)

/-- After header and payload the register ends as the CRC8 of both. -/
theorem afterPayload_crcFinal {s : State} {a l : Byte} {p rest : List Byte} {ms : List Move} :
    crcFinal s.cfg.algo ((s.afterHeader a l rest ms).afterPayload p rest ms).rx_crc = crc8 s.cfg.algo ([a, l] ++ p) :=
  congrArg (crcFinal s.cfg.algo) (crcRaw_append s.cfg.algo [a, l] p).symm

/-- A frame of the right shape with another checksum byte than its own is reported, and nothing is delivered. -/
theorem run_damagedFrame {s : State} {a l c : Byte} {p rest : List Byte} {ms : List Move}
    (h : RxReads s (0xAA :: a :: l :: (p ++ [c])) rest ms) (hst : s.rx_st = RxSt.AWAIT_START) (hne : p ≠ [])
    (hl : l.toNat = p.length) (hc : c ≠ crc8 s.cfg.algo ([a, l] ++ p)) :
    run (p.length + 4) s =
      .next (((s.afterHeader a l rest ms).afterPayload p rest ms).afterMismatch c rest ms) := by
  obtain ⟨b, q, rfl⟩ := List.exists_cons_of_ne_nil hne
  have hl0 : l ≠ 0x00 := fun h0 => by simp [h0] at hl
  obtain ⟨t₁, hrun₁, h₁, rfl⟩ := run_header (input := b :: q ++ [c]) h hst hl0
  obtain ⟨t₂, hrun₂, h₂, rfl⟩ := run_payload h₁ rfl hl (Nat.le_refl _)
  have hstep := step_mismatch h₂ rfl (hc.trans_eq (afterPayload_crcFinal (rest := rest) (ms := ms)).symm)
  rw [show (b :: q).length + 4 = 3 + ((b :: q).length + 1) by omega, run_add _ hrun₁, run_add _ hrun₂,
    run_succ 0 hstep]
  rfl

/-- Settles O40: the flipped frame has a frame's shape and a wrong checksum. -/
theorem oneBitErrorIsRejected : Obligations.OneBitErrorIsRejected := by
  unfold Obligations.OneBitErrorIsRejected
  intro s a p bytes tail ms i k hm hst hsampled _ hpoly henc hi h0 h2 hk hlink hturns
  obtain ⟨hne, -, hlen, hbytes⟩ := encodeFrame_bytes henc
  obtain rfl : bytes = wireFrame s.cfg.algo a p := hbytes
  have hsize := wireFrame_length s.cfg.algo a p
  obtain ⟨a', p', c, hflip, hp', hc⟩ := flipBit_wireFrame hpoly (hsize ▸ hi) h0 h2 hk
  have hread : RxReads s (0xAA :: a' :: BitVec.ofNat 8 p.length :: (p' ++ [c])) tail ms :=
    ⟨hm, hsampled, hflip ▸ hlink, by rw [hturns, ← hflip, flipBit_length]⟩
  have hrun := run_damagedFrame hread hst (fun h => hne (List.eq_nil_of_length_eq_zero (by rw [← hp', h]; rfl)))
    (hlen.trans hp'.symm) hc
  rw [hp', ← hsize] at hrun
  exact ⟨_, a', _, c, hrun, hm, rfl, rfl, rfl, rfl, rfl, (hc.trans_eq afterPayload_crcFinal.symm).symm, rfl⟩

end Sys2Proof.Machine
end

section
/-! SUPPORT. The RX invariant, one lemma for each state code, and that every step of RX keeps it (10_state.md R38). -/

namespace Sys2Proof.Machine

section Codes

variable {t : State}

theorem RxInv.of_readAddress (hst : t.rx_st = RxSt.READ_ADDRESS) (h : t.rx_crc = t.cfg.algo.init) : RxInv t := by
  constructor <;> simp [hst, h]

theorem RxInv.of_readLength (hst : t.rx_st = RxSt.READ_LENGTH)
    (h : t.rx_crc = crcUpdate t.cfg.algo t.cfg.algo.init t.rx_addr) : RxInv t := by
  constructor <;> simp [hst, h]

theorem RxInv.of_readPayload (hst : t.rx_st = RxSt.READ_PAYLOAD)
    (h : 1 ≤ t.rx_rem.toNat ∧ t.rx_rem.toNat ≤ t.rx_len.toNat ∧
      t.rx_crc = crcRaw t.cfg.algo ([t.rx_addr, t.rx_len] ++ t.rxReceived)) : RxInv t where
  code := by simp [hst]
  address := by simp [hst]
  length := by simp [hst]
  payload _ := h
  checksum := by simp [hst]

theorem RxInv.of_readChecksum (hst : t.rx_st = RxSt.READ_CHECKSUM)
    (h : t.rx_rem = 0 ∧ 1 ≤ t.rx_len.toNat ∧ t.rx_crc = crcRaw t.cfg.algo ([t.rx_addr, t.rx_len] ++ t.rxPayload)) :
    RxInv t where
  code := by simp [hst]
  address := by simp [hst]
  length := by simp [hst]
  payload := by simp [hst]
  checksum _ := h

end Codes

/-- The register after the next payload byte is stored: that of the header and all payload bytes then received. -/
theorem RxInv.crc_next {s : State} (h : RxInv s) (hst : s.rx_st = RxSt.READ_PAYLOAD) (hbuf : s.rx_buf.wf) (b : Byte) :
    crcUpdate s.cfg.algo s.rx_crc b =
      crcRaw s.cfg.algo ([s.rx_addr, s.rx_len] ++
        (s.rx_buf.write (s.rx_len.toNat - s.rx_rem.toNat) b).upTo (s.rx_len.toNat - (s.rx_rem.toNat - 1))) := by
  obtain ⟨hpos, hle, hcrc⟩ := h.payload hst
  have hnext : s.rx_len.toNat - (s.rx_rem.toNat - 1) = s.rx_len.toNat - s.rx_rem.toNat + 1 := by omega
  rw [hnext, Memory.upTo_write hbuf, crcRaw_header_snoc, hcrc, State.rxReceived]

/-- What the invariant of the machine says of RX's half of the state. -/
structure RxSafe (s : State) : Prop where
  mode : s.rx_mode ≠ Mode.UNUSED
  inv : RxInv s
  buf : s.rx_buf.wf
  sin : s.sin.wf

/-- What the invariant of the machine says of TX's half of the state. -/
structure TxSafe (s : State) : Prop where
  mode : s.tx_mode ≠ Mode.UNUSED
  inv : TxInv s
  buf : s.tx_buf.wf
  sout : s.sout.wf

theorem RxAgree.rxSafe {s t : State} (ha : RxAgree s t) (h : RxSafe s) : RxSafe t where
  mode := ha.rx_mode ▸ h.mode
  inv := h.inv.of_eq ha.cfg.symm ha.rx_st.symm ha.rx_addr.symm ha.rx_len.symm ha.rx_rem.symm ha.rx_crc.symm
    ha.rx_buf.symm
  buf := ha.rx_buf ▸ h.buf
  sin := ha.sin ▸ h.sin

theorem TxAgree.txSafe {s t : State} (ha : TxAgree s t) (h : TxSafe s) : TxSafe t where
  mode := ha.tx_mode ▸ h.mode
  inv := h.inv.of_eq ha.cfg.symm ha.tx_st.symm ha.tx_addr.symm ha.tx_len.symm ha.tx_rem.symm ha.tx_crc.symm
    ha.tx_buf.symm
  buf := ha.tx_buf ▸ h.buf
  sout := ha.sout ▸ h.sout

/-- The payload of a delivery, or the part an endpoint kept, is appended to one queue. -/
theorem routeInbound_sin (s : State) (a : Byte) (p : List Byte) :
    ∃ k, (s.routeInbound a p).sin = s.sin.set a.toNat (s.sin.get a.toNat ++ p.take k) := by
  cases hw : s.w_ans with
  | ok => exact ⟨p.length, by rw [routeInbound_ok hw, List.take_length]; rfl⟩
  | fault k => exact ⟨_, by rw [routeInbound_fault hw]; rfl⟩

theorem routeInbound_rx_mode (s : State) (a : Byte) (p : List Byte) : (s.routeInbound a p).rx_mode = s.rx_mode := by
  cases hw : s.w_ans with
  | ok => rw [routeInbound_ok hw]; rfl
  | fault k => rw [routeInbound_fault hw]; rfl

theorem routeInbound_rx_buf (s : State) (a : Byte) (p : List Byte) : (s.routeInbound a p).rx_buf = s.rx_buf := by
  cases hw : s.w_ans with
  | ok => rw [routeInbound_ok hw]; rfl
  | fault k => rw [routeInbound_fault hw]; rfl

/-- Every step of RX keeps RX's half of the invariant. -/
theorem exec_rx_keeps_rxSafe {i : Instr} {s t : State} (hi : i.ofRx = true) (h : RxSafe s) (hx : exec i s = .next t) :
    RxSafe t := by
  cases i with
  | inDrop =>
    obtain ⟨b, rest, -, -, hst, -, rfl⟩ := exec_inDrop_next hx
    exact { h with inv := .of_idle hst }
  | inSof =>
    obtain ⟨b, rest, -, -, -, -, rfl⟩ := exec_inSof_next hx
    exact { h with inv := .of_readAddress rfl rfl }
  | inAddr =>
    obtain ⟨b, rest, -, -, hst, rfl⟩ := exec_inAddr_next hx
    exact { h with inv := .of_readLength rfl (by rw [h.inv.address hst]) }
  | inLen0 =>
    obtain ⟨b, rest, -, -, -, -, rfl⟩ := exec_inLen0_next hx
    exact { h with inv := .of_idle rfl }
  | inLen =>
    obtain ⟨b, rest, -, -, hst, hb, rfl⟩ := exec_inLen_next hx
    have hpos : 1 ≤ b.toNat := Nat.one_le_iff_ne_zero.2 fun h0 => hb (BitVec.eq_of_toNat_eq h0)
    refine { h with inv := .of_readPayload rfl ⟨hpos, le_rfl, ?_⟩ }
    simp [State.rxReceived, h.inv.length hst, crcRaw]
  | inPay =>
    obtain ⟨b, rest, -, -, hst, hne, hpos, hle, rfl⟩ := exec_inPay_next hx
    have hpred := toNat_sub_one hpos
    have hne := toNat_ne_one hne
    have hcrc := h.inv.crc_next hst h.buf b
    rw [← hpred] at hcrc
    exact { h with
      inv := .of_readPayload hst
        ⟨(show 1 ≤ (s.rx_rem - 1).toNat by omega), (show (s.rx_rem - 1).toNat ≤ s.rx_len.toNat by omega), hcrc⟩
      buf := Memory.write_wf h.buf }
  | inPaylast =>
    obtain ⟨b, rest, -, -, hst, hone, hpos, hle, rfl⟩ := exec_inPaylast_next hx
    have hcrc := h.inv.crc_next hst h.buf b
    rw [show s.rx_rem.toNat - 1 = 0 by simp [hone]] at hcrc
    exact { h with
      inv := .of_readChecksum rfl ⟨rfl, hpos.trans hle, hcrc⟩
      buf := Memory.write_wf h.buf }
  | inCrcbad =>
    obtain ⟨b, rest, -, -, -, -, rfl⟩ := exec_inCrcbad_next hx
    exact { h with inv := .of_idle rfl }
  | inDeliver =>
    obtain ⟨b, rest, -, -, -, -, -, rfl⟩ := exec_inDeliver_next hx
    obtain ⟨k, hsin⟩ := routeInbound_sin { s with link_in := rest } s.rx_addr s.rxPayload
    exact {
      mode := by rw [State.toAwaitStart_rx_mode, routeInbound_rx_mode]; exact h.mode
      inv := .of_idle rfl
      buf := by rw [State.toAwaitStart_rx_buf, routeInbound_rx_buf]; exact h.buf
      sin := by rw [State.toAwaitStart_sin, hsin]; exact Streams.set_wf h.sin }
  | inUnroutable =>
    obtain ⟨b, rest, -, -, -, -, -, rfl⟩ := exec_inUnroutable_next hx
    exact { h with inv := .of_idle rfl }
  | rxIncomplete =>
    obtain ⟨-, rfl⟩ := exec_rxIncomplete_next hx
    exact { h with inv := h.inv.of_eq rfl rfl rfl rfl rfl rfl rfl }
  | rxHalt =>
    obtain ⟨-, rfl⟩ := exec_rxHalt_next hx
    exact { h with inv := h.inv.of_eq rfl rfl rfl rfl rfl rfl rfl, mode := by simp }
  | _ => cases hi

/-- Every step of TX keeps TX's half of the invariant. -/
theorem exec_tx_keeps_txSafe {i : Instr} {s t : State} (hi : i.ofTx = true) (h : TxSafe s) (hn : s.cfg.n ≤ 256)
    (hx : exec i s = .next t) : TxSafe t := by
  have hinv := exec_tx_keeps_txInv hi h.inv (fun _ => hn) hx
  rcases exec_tx_kinds hi hx with rfl | rfl | rfl | ⟨b, hsent⟩
  · obtain ⟨a, -, -, -, rfl⟩ := exec_outFetch_next hx
    exact { h with inv := hinv, buf := Memory.writeFrom_wf h.buf, sout := Streams.set_wf h.sout }
  · obtain ⟨a, -, -, -, rfl⟩ := exec_outSfault_next hx
    exact { h with inv := hinv, sout := Streams.set_wf h.sout }
  · obtain ⟨-, rfl⟩ := exec_txHalt_next hx
    exact { h with inv := hinv, mode := by simp }
  · exact ⟨hsent.mode ▸ h.mode, hinv, hsent.buf ▸ h.buf, hsent.sout ▸ h.sout⟩

end Sys2Proof.Machine
end

section
/-! SUPPORT. Every step keeps the invariant of the machine (10_state.md R38, R39): the instructions first, then the
moves. -/

namespace Sys2Proof.Machine

theorem Inv.rxSafe {s : State} (h : Inv s) : RxSafe s := ⟨h.rxMode, h.rx, h.rxBuf, h.sin⟩

theorem Inv.txSafe {s : State} (h : Inv s) : TxSafe s := ⟨h.txMode, h.tx, h.txBuf, h.sout⟩

/-- The invariant, put together from the two halves. -/
theorem Inv.of_halves {s : State} (hn : s.cfg.n ≤ 256) (hr : RxSafe s) (ht : TxSafe s)
    (hh : s.held = true → s.rx_st = RxSt.AWAIT_START ∧ s.tx_st = TxSt.TX_IDLE) : Inv s :=
  ⟨hn, hr.mode, ht.mode, hr.inv, ht.inv, hr.buf, ht.buf, hr.sin, ht.sout, hh⟩

/-- The invariant does not read `stop`, the link queues or the model's own fields, and a released RESET asks less. -/
theorem Inv.of_unread {s : State} (h : Inv s) (stop held : Bool) (hh : held = true → s.held = true)
    (input output : List Byte) (log : List Event) (ms : List Move) (free pick : Nat) (w : WriteAnswer)
    (ans : ReadAnswer) (phase : Phase) :
    Inv { s with
      stop := stop, held := held, link_in := input, link_out := output, log := log, agenda := ms, free := free
      w_ans := w, r_ans := ans, pick := pick, phase := phase } :=
  { h with
    rx := h.rx.of_eq rfl rfl rfl rfl rfl rfl rfl
    tx := h.tx.of_eq rfl rfl rfl rfl rfl rfl rfl
    held := fun hheld => h.held (hh hheld) }

theorem applyReset_inv {s : State} (h : Inv s) : Inv s.applyReset where
  config := h.config
  rxMode := by simp
  txMode := by simp
  rx := .of_idle rfl
  tx := .of_idle rfl
  rxBuf := by rw [State.applyReset_rx_buf]; exact Memory.unspecified_wf _
  txBuf := by rw [State.applyReset_tx_buf]; exact Memory.unspecified_wf _
  sin := h.sin
  sout := h.sout
  held _ := ⟨rfl, rfl⟩

/-- Every instruction, taken with RESET released, keeps the invariant. -/
theorem exec_keeps_inv {i : Instr} {s t : State} (h : Inv s) (hheld : s.held = false) (hx : exec i s = .next t) :
    Inv t := by
  rcases instr_kinds i with hrx | htx | hhost | hres
  · have ha := exec_rx_keeps_tx hrx hx
    obtain ⟨w, hw⟩ := exec_rx_eq_withRxOf hrx hx
    have hheld' : t.held = false := hw ▸ hheld
    exact .of_halves (ha.cfg ▸ h.config) (exec_rx_keeps_rxSafe hrx h.rxSafe hx) (ha.txSafe h.txSafe)
      (by simp [hheld'])
  · have ha := exec_tx_keeps_rx htx hx
    obtain ⟨w, hw⟩ := exec_tx_eq_withTxOf htx hx
    have hheld' : t.held = false := hw ▸ hheld
    exact .of_halves (ha.cfg ▸ h.config) (ha.rxSafe h.rxSafe) (exec_tx_keeps_txSafe htx h.txSafe h.config hx)
      (by simp [hheld'])
  · fin_cases hhost
    · rw [exec_reset_next hx]
      exact applyReset_inv h
    · rw [exec_setStop_next hx]
      exact h.of_unread true s.held id ..
    · obtain ⟨-, rfl⟩ := exec_rxLinkFault_next hx
      exact { h with
        rx := h.rx.of_eq rfl rfl rfl rfl rfl rfl rfl
        tx := h.tx.of_eq rfl rfl rfl rfl rfl rfl rfl
        rxMode := by simp }
    · obtain ⟨-, rfl⟩ := exec_txLinkFault_next hx
      exact { h with
        rx := h.rx.of_eq rfl rfl rfl rfl rfl rfl rfl
        tx := h.tx.of_eq rfl rfl rfl rfl rfl rfl rfl
        txMode := by simp }
  · exact absurd hx (exec_not_next_of_reserved hres)

/-- Every move keeps the invariant. -/
theorem MoveEffect.keeps_inv {m : Move} {s t : State} (he : MoveEffect s t m) (h : Inv s) : Inv t := by
  have hturn (w : WriteAnswer) (p : Nat) (ans : ReadAnswer) :
      Inv { s with w_ans := w, pick := p, r_ans := ans, held := false } :=
    h.of_unread s.stop false (by simp) ..
  cases he with
  | rxStep w i _ hx => exact exec_keeps_inv (hturn w s.pick s.r_ans) rfl hx
  | txStep p ans i _ hx => exact exec_keeps_inv (hturn s.w_ans p ans) rfl hx
  | ctlStep k i _ _ hx => exact exec_keeps_inv (hturn s.w_ans s.pick s.r_ans) rfl hx
  | closeRunning _ hx => exact exec_keeps_inv (hturn s.w_ans s.pick s.r_ans) rfl hx
  | rxWait _ _ _ ht | txWait _ _ _ _ ht | ctlIdle _ ht _ | appendLinkIn _ ht | drainLinkOut _ ht | readModes ht
  | closeEnded _ ht | releaseEndpoints ht =>
    rw [ht]
    exact h.of_unread s.stop s.held id ..
  | appendSout a bs _ ht =>
    rw [ht]
    exact { h with
      rx := h.rx.of_eq rfl rfl rfl rfl rfl rfl rfl
      tx := h.tx.of_eq rfl rfl rfl rfl rfl rfl rfl
      sout := Streams.set_wf h.sout }
  | configure c hc hheld ht =>
    obtain ⟨hrx, htx⟩ := h.held hheld
    rw [ht]
    exact { h with config := hc, rx := .of_idle hrx, tx := .of_idle htx }

/-- Settles O35: taking the move off leaves the invariant, and the move keeps it. -/
theorem everyStepKeepsInvariant : Obligations.EveryStepKeepsInvariant := by
  unfold Obligations.EveryStepKeepsInvariant
  intro s t h hstep
  obtain ⟨ms, n, hnext⟩ := nextMove_same s
  refine (step_effect hstep).keeps_inv ?_
  rw [hnext]
  exact h.of_unread s.stop s.held id ..

end Sys2Proof.Machine
end

section
/-! SUPPORT. From the invariant, a step answers no fault and is never refused as not enabled (30_encoding.md R76,
93_implementation_defined.md I6, I7): what an agent selects completes, and so does an enabled CTL step. -/

namespace Sys2Proof.Machine

/-- The result is no fault, and no refusal of a step that was not enabled. -/
def NoModelFault (r : Result) : Prop := (∀ f, r ≠ .fault f) ∧ r ≠ .refused .notEnabled

theorem noModelFault_next (t : State) : NoModelFault (.next t) := ⟨fun _ => nofun, nofun⟩

theorem noModelFault_refused {r : Refusal} (h : r ≠ .notEnabled) : NoModelFault (.refused r) :=
  ⟨fun _ => nofun, fun hr => h (Host.Outcome.refused.inj hr)⟩

theorem noModelFault_of_next {r : Result} (h : ∃ t, r = .next t) : NoModelFault r := by
  obtain ⟨t, rfl⟩ := h
  exact noModelFault_next t

theorem noModelFault_ite {c : Prop} [Decidable c] {x y : Result} (hx : c → NoModelFault x) (hy : ¬ c → NoModelFault y) :
    NoModelFault (if c then x else y) := by
  split
  · next h => exact hx h
  · next h => exact hy h

/-! ### What an agent selects -/

/-- No RXB word is RX_HALT's or RX_INCOMPLETE's. -/
theorem decodeRxb_ne_ctl : ∀ w : RxbWord, decodeRxb w ≠ some .rxHalt ∧ decodeRxb w ≠ some .rxIncomplete := by decide

/-- An RXB step completes where its effect does. -/
theorem TakesByte.rxbStep_completes {s : State} {i : Instr} {b : Byte} {rest : List Byte} {f : Byte → State → Result}
    (hb : TakesByte s b rest) (hd : decodeRxb (s.rxbWord b) = some i)
    (hf : ∃ t, f b { s with link_in := rest } = .next t) : ∃ t, rxbStep i s f = .next t := by
  rwa [rxbStep_eq hb.byte hb.enabled hd]

/-- Where the RX invariant holds, the step RX selects completes. -/
theorem RxInv.exec_next {s : State} {i : Instr} (h : RxInv s) (hi : s.rxTakes i) : ∃ t, exec i s = .next t := by
  rcases rxTakes_cases hi with ⟨rfl, he⟩ | ⟨rfl, he⟩ | ⟨b, rest, hb, hd⟩
  · exact ⟨_, if_pos he⟩
  · exact ⟨_, if_pos he⟩
  cases i with
  | inDrop | inSof | inAddr | inLen0 | inLen | inCrcbad | inDeliver | inUnroutable =>
    simp only [exec]
    refine hb.rxbStep_completes hd ?_
    exact ⟨_, rfl⟩
  | inPay =>
    obtain ⟨hst, hne⟩ := (rxbWord_inPay s b).1 hd
    obtain ⟨hpos, hle, -⟩ := h.payload hst
    have hne := toNat_ne_one hne
    exact ⟨_, hb.exec_inPay hst (by omega) hle⟩
  | inPaylast =>
    obtain ⟨hst, hone⟩ := (rxbWord_inPaylast s b).1 hd
    obtain ⟨hpos, hle, -⟩ := h.payload hst
    exact ⟨_, hb.exec_inPaylast hst hone (hpos.trans hle)⟩
  | rxHalt => exact absurd hd (decodeRxb_ne_ctl _).1
  | rxIncomplete => exact absurd hd (decodeRxb_ne_ctl _).2
  | rxReservedSt5 => exact absurd hi h.not_takes_reservedSt5
  | rxReservedSt67 => exact absurd hi h.not_takes_reservedSt67
  | _ => exact absurd (rxTakes_kind hi) (by decide)

/-- Every selector that RX forms decodes. -/
theorem rxSelect_takes {s : State} {w : Selector} (h : s.rxSelect = some w) : ∃ i, s.rxTakes i := by
  rcases rxSelect_cases h with ⟨rfl, -⟩ | ⟨rfl, -⟩ | ⟨b, rest, -, -, rfl⟩
  · exact ⟨.rxHalt, _, h, by decide⟩
  · exact ⟨.rxIncomplete, _, h, by decide⟩
  · obtain ⟨i, hd, -⟩ := decode_rxbWord s b
    exact ⟨i, _, h, hd⟩

/-- Every selector that TX forms decodes. -/
theorem txSelect_takes {s : State} {w : Selector} (h : s.txSelect = some w) : ∃ i, s.txTakes i := by
  rcases txSelect_cases h with ⟨rfl, -⟩ | ⟨rfl, -⟩
  · exact ⟨.txHalt, _, h, by decide⟩
  · obtain ⟨i, hd, -⟩ := decode_txbWord s
    exact ⟨i, _, h, hd⟩

/-! ### The moves -/

theorem rxTurn_noModelFault {s : State} {w : WriteAnswer} {ms : List Move} (h : RxSafe s)
    (ha : s.agenda = .rx w :: ms) : NoModelFault (step s) := by
  cases hsel : s.rxSelect with
  | none =>
    rw [step_rx_waits ha h.mode hsel]
    exact noModelFault_next _
  | some v =>
    obtain ⟨i, hi⟩ := rxSelect_takes hsel
    have hturn : RxInv { s with agenda := ms, w_ans := w, held := false } := h.inv.of_eq rfl rfl rfl rfl rfl rfl rfl
    rw [step_rx_takes ha hi]
    exact noModelFault_of_next (hturn.exec_next hi)

theorem txTurn_noModelFault {s : State} {p : Nat} {ans : ReadAnswer} {ms : List Move} (h : TxSafe s)
    (ha : s.agenda = .tx p ans :: ms) : NoModelFault (step s) := by
  cases hsel : ({ s with agenda := ms, pick := p, r_ans := ans } : State).txSelect with
  | none =>
    rw [step_tx_waits ha h.mode hsel]
    exact noModelFault_next _
  | some v =>
    obtain ⟨i, hi⟩ := txSelect_takes hsel
    have hturn : TxInv { s with agenda := ms, pick := p, r_ans := ans, held := false } :=
      h.inv.of_eq rfl rfl rfl rfl rfl rfl rfl
    rw [step_tx_takes ha hi]
    exact noModelFault_of_next (hturn.exec_next hi)

/-- An enabled CTL step completes. -/
theorem exec_next_of_ctlEnabled {i : Instr} {s : State} (h : s.ctlEnabled i = true) : ∃ t, exec i s = .next t := by
  cases i with
  | reset | setStop => exact ⟨_, rfl⟩
  | rxIncomplete | rxHalt | rxLinkFault | txHalt | txLinkFault => exact ⟨_, if_pos h⟩
  | _ => cases h

theorem ctlMove_noModelFault (k : CtlCode) (s : State) : NoModelFault (ctlMove k s) := by
  unfold ctlMove
  split
  · exact noModelFault_refused nofun
  · next i _ =>
    refine noModelFault_ite (fun he => ?_) fun _ => noModelFault_next s
    exact noModelFault_of_next (exec_next_of_ctlEnabled (s := s.release) (by cases i <;> exact he))

theorem configureMove_noModelFault (c : Config) (s : State) : NoModelFault (configureMove c s) :=
  noModelFault_ite (fun _ => noModelFault_refused nofun) fun _ =>
    noModelFault_ite (fun _ => noModelFault_next _) fun _ => noModelFault_refused nofun

theorem appendSoutMove_noModelFault (a : Nat) (bs : List Byte) (s : State) : NoModelFault (appendSoutMove a bs s) :=
  noModelFault_ite (fun _ => noModelFault_next _) fun _ => noModelFault_refused nofun

theorem closeLinkMove_noModelFault (s : State) : NoModelFault (closeLinkMove s) :=
  noModelFault_ite (fun hm => noModelFault_of_next (exec_next_of_ctlEnabled (i := .rxLinkFault) hm)) fun _ =>
    noModelFault_ite (fun _ => noModelFault_refused nofun) fun _ => noModelFault_next _

theorem releaseEndpointsMove_noModelFault (s : State) : NoModelFault (releaseEndpointsMove s) :=
  noModelFault_ite (fun _ => noModelFault_refused nofun) fun _ => noModelFault_next _

/-- A scheduled move, taken from a state with the invariant. -/
theorem step_noModelFault_of_cons {s : State} {m : Move} {ms : List Move} (h : Inv s) (ha : s.agenda = m :: ms) :
    NoModelFault (step s) := by
  cases m with
  | rx w => exact rxTurn_noModelFault h.rxSafe ha
  | tx p ans => exact txTurn_noModelFault h.txSafe ha
  | ctl k => exact step_cons ha ▸ ctlMove_noModelFault k _
  | appendLinkIn bs => exact step_cons ha ▸ noModelFault_next _
  | drainLinkOut c => exact step_cons ha ▸ noModelFault_next _
  | appendSout a bs => exact step_cons ha ▸ appendSoutMove_noModelFault a bs _
  | readModes => exact step_cons ha ▸ noModelFault_next _
  | configure c => exact step_cons ha ▸ configureMove_noModelFault c _
  | closeLink => exact step_cons ha ▸ closeLinkMove_noModelFault _
  | releaseEndpoints => exact step_cons ha ▸ releaseEndpointsMove_noModelFault _

/-- Settles O36: a step takes a scheduled move, or the free one as if it were scheduled. -/
theorem invariantExcludesModelFaults : Obligations.InvariantExcludesModelFaults := by
  unfold Obligations.InvariantExcludesModelFaults
  intro s h
  cases ha : s.agenda with
  | nil =>
    rw [step_free ha]
    exact step_noModelFault_of_cons (h.of_unread s.stop s.held id ..) rfl
  | cons m ms => exact step_noModelFault_of_cons h ha

end Sys2Proof.Machine
end

section
/-! SUPPORT. RX on a silent link after a stop request (43_inbound_reader.md R124, R125, R128, R129). -/

namespace Sys2Proof.Machine

section Silent

variable {s : State} {ans : WriteAnswer} {ms : List Move}

theorem step_rxIncomplete (ha : s.agenda = .rx ans :: ms) (h : s.rxIncompleteEnabled = true) :
    step s = .next { s with agenda := ms, w_ans := ans, held := false, rx_poll := true } :=
  (step_rx_takes ha (rxTakes_rxIncomplete h)).trans (if_pos h)

theorem step_rxHalt (ha : s.agenda = .rx ans :: ms) (h : s.rxHaltEnabled = true) :
    step s = .next { s with agenda := ms, w_ans := ans, held := false, rx_mode := Mode.STOPPED } :=
  (step_rx_takes ha (rxTakes_rxHalt h)).trans (if_pos h)

/-- An RX that is not RUNNING selects nothing. -/
theorem rxSelect_ended (hm : s.rx_mode ≠ Mode.RUNNING) : s.rxSelect = none := by
  cases hsel : s.rxSelect with
  | none => rfl
  | some w =>
    obtain ⟨i, hi⟩ := rxSelect_takes hsel
    exact absurd (rx_running_of_takes hi) hm

end Silent

/-- Settles O41: inside a decode call RX_INCOMPLETE leads to the stop-sample point and RX_HALT ends RX there; at that
point already, RX_HALT comes first, and the second turn passes. -/
theorem rxHaltsOnSilentLink : Obligations.RxHaltsOnSilentLink := by
  unfold Obligations.RxHaltsOnSilentLink
  intro s ms hm hstop hlink ha
  cases hpoll : s.rx_poll with
  | false =>
    have hreturn := step_rxIncomplete (ms := .rx .ok :: ms) ha ((rxIncompleteEnabled_iff s).2 ⟨hm, hpoll, hlink⟩)
    exact (run_succ 1 hreturn).trans (run_succ 0 (step_rxHalt rfl ((rxHaltEnabled_iff _).2 ⟨hm, rfl, hstop⟩)))
  | true =>
    have hhalt := step_rxHalt (ms := .rx .ok :: ms) ha ((rxHaltEnabled_iff s).2 ⟨hm, hpoll, hstop⟩)
    rw [← hpoll]
    exact (run_succ 1 hhalt).trans (run_succ 0 (step_rx_waits rfl (by simp) (rxSelect_ended (by simp))))

end Sys2Proof.Machine
end

section
/-! SUPPORT. What every step of the machine keeps: a step runs one instruction, or the host changes its own queues, the
configuration and the model's own fields. -/

namespace Sys2Proof.Machine

/-- From s to t nothing changed but what a move of the host writes, and the model's own fields. -/
def HostChange (s t : State) : Prop :=
  t = { s with
    cfg := t.cfg, link_in := t.link_in, link_out := t.link_out, sout := t.sout, agenda := t.agenda, free := t.free
    w_ans := t.w_ans, pick := t.pick, r_ans := t.r_ans, phase := t.phase }

/-- A step ran one instruction, RESET only where that is the next move, or was a change by the host. -/
theorem step_exec_or_host {s t : State} (h : step s = .next t) :
    (∃ i ms n w p ans, (i = .reset → s.nextIsReset) ∧
      exec i { s with agenda := ms, free := n, w_ans := w, pick := p, r_ans := ans, held := false } = .next t) ∨
    HostChange s t := by
  obtain ⟨ms, n, hnext⟩ := nextMove_same s
  have he := step_effect h
  rw [hnext] at he
  have hreset : s.nextIsReset ↔ s.nextMove.1 = .ctl 0x0 := Iff.rfl
  generalize s.nextMove.1 = m at he hreset
  cases he with
  | rxStep w i htakes hx =>
    exact .inl ⟨i, ms, n, w, _, _, fun hi => absurd (rxTakes_kind (hi ▸ htakes)) (by decide), hx⟩
  | txStep p ans i htakes hx =>
    exact .inl ⟨i, ms, n, _, p, ans, fun hi => absurd (txTakes_kind (hi ▸ htakes)) (by decide), hx⟩
  | ctlStep k i hd _ hx =>
    exact .inl ⟨i, ms, n, _, _, _, fun hi => hreset.2 (congrArg Move.ctl (decodeCtl_reset (hi ▸ hd))), hx⟩
  | closeRunning _ hx => exact .inl ⟨.rxLinkFault, ms, n, _, _, _, nofun, hx⟩
  | rxWait _ _ _ ht | txWait _ _ _ _ ht | ctlIdle _ ht | appendLinkIn _ ht | drainLinkOut _ ht | appendSout _ _ _ ht
  | readModes ht | configure _ _ _ ht | closeEnded _ ht | releaseEndpoints ht => subst ht; exact .inr rfl

/-! ### Ended directions -/

/-- RX's mode, registers and buffer and every `sin` are as before. -/
def RxKept (s t : State) : Prop :=
  t.rx_mode = s.rx_mode ∧ t.rx_st = s.rx_st ∧ t.rx_poll = s.rx_poll ∧ t.rx_addr = s.rx_addr ∧ t.rx_len = s.rx_len ∧
    t.rx_rem = s.rx_rem ∧ t.rx_crc = s.rx_crc ∧ t.rx_buf = s.rx_buf ∧ t.sin = s.sin

/-- TX's mode, registers and buffer are as before. -/
def TxKept (s t : State) : Prop :=
  t.tx_mode = s.tx_mode ∧ t.tx_st = s.tx_st ∧ t.tx_addr = s.tx_addr ∧ t.tx_len = s.tx_len ∧ t.tx_rem = s.tx_rem ∧
    t.tx_crc = s.tx_crc ∧ t.tx_buf = s.tx_buf

theorem RxAgree.rxKept {s t : State} (h : RxAgree s t) : RxKept s t :=
  ⟨h.rx_mode.symm, h.rx_st.symm, h.rx_poll.symm, h.rx_addr.symm, h.rx_len.symm, h.rx_rem.symm, h.rx_crc.symm,
    h.rx_buf.symm, h.sin.symm⟩

theorem TxAgree.txKept {s t : State} (h : TxAgree s t) : TxKept s t :=
  ⟨h.tx_mode.symm, h.tx_st.symm, h.tx_addr.symm, h.tx_len.symm, h.tx_rem.symm, h.tx_crc.symm, h.tx_buf.symm⟩

theorem HostChange.rxKept {s t : State} (h : HostChange s t) : RxKept s t := by
  rw [h]
  exact ⟨rfl, rfl, rfl, rfl, rfl, rfl, rfl, rfl, rfl⟩

theorem HostChange.txKept {s t : State} (h : HostChange s t) : TxKept s t := by
  rw [h]
  exact ⟨rfl, rfl, rfl, rfl, rfl, rfl, rfl⟩

/-- No instruction but RESET writes anything of an RX that is not RUNNING. -/
theorem exec_rxKept {i : Instr} {s t : State} (hi : i ≠ .reset) (hx : exec i s = .next t)
    (hm : s.rx_mode ≠ Mode.RUNNING) : RxKept s t := by
  rcases instr_kinds i with hrx | htx | hhost | hres
  · exact absurd (rx_running_of_takes (rxTakes_of_exec hrx hx)) hm
  · exact (exec_tx_keeps_rx htx hx).rxKept
  · fin_cases hhost
    · exact absurd rfl hi
    · rw [exec_setStop_next hx]
      exact ⟨rfl, rfl, rfl, rfl, rfl, rfl, rfl, rfl, rfl⟩
    · exact absurd (exec_rxLinkFault_next hx).1 hm
    · rw [(exec_txLinkFault_next hx).2]
      exact ⟨rfl, rfl, rfl, rfl, rfl, rfl, rfl, rfl, rfl⟩
  · exact absurd hx (exec_not_next_of_reserved hres)

/-- No instruction but RESET writes anything of a TX that is not RUNNING. -/
theorem exec_txKept {i : Instr} {s t : State} (hi : i ≠ .reset) (hx : exec i s = .next t)
    (hm : s.tx_mode ≠ Mode.RUNNING) : TxKept s t := by
  rcases instr_kinds i with hrx | htx | hhost | hres
  · exact (exec_rx_keeps_tx hrx hx).txKept
  · exact absurd (tx_running_of_takes (txTakes_of_exec htx hx)) hm
  · fin_cases hhost
    · exact absurd rfl hi
    · rw [exec_setStop_next hx]
      exact ⟨rfl, rfl, rfl, rfl, rfl, rfl, rfl⟩
    · rw [(exec_rxLinkFault_next hx).2]
      exact ⟨rfl, rfl, rfl, rfl, rfl, rfl, rfl⟩
    · exact absurd (exec_txLinkFault_next hx).1 hm
  · exact absurd hx (exec_not_next_of_reserved hres)

/-- Settles O52: only RESET and a direction's own steps write its registers, and those need it RUNNING. -/
theorem endedDirectionStaysEnded : Obligations.EndedDirectionStaysEnded := by
  unfold Obligations.EndedDirectionStaysEnded
  refine ⟨fun s t hstep hreset hm => ?_, fun s t hstep hreset hm => ?_⟩
  · rcases step_exec_or_host hstep with ⟨i, ms, n, w, p, ans, hi, hx⟩ | hhost
    · exact (exec_rxKept (fun h => hreset (hi h)) hx hm :)
    · exact hhost.rxKept
  · rcases step_exec_or_host hstep with ⟨i, ms, n, w, p, ans, hi, hx⟩ | hhost
    · exact (exec_txKept (fun h => hreset (hi h)) hx hm :)
    · exact hhost.txKept

/-! ### The configuration -/

/-- No instruction writes the configuration. -/
theorem exec_keeps_cfg {i : Instr} {s t : State} (hx : exec i s = .next t) : t.cfg = s.cfg := by
  rcases instr_kinds i with hrx | htx | hhost | hres
  · exact (exec_rx_keeps_tx hrx hx).cfg.symm
  · exact (exec_tx_keeps_rx htx hx).cfg.symm
  · fin_cases hhost
    · rw [exec_reset_next hx, State.applyReset_cfg]
    · rw [exec_setStop_next hx]
    · rw [(exec_rxLinkFault_next hx).2, State.linkFault_rx_cfg]
    · rw [(exec_txLinkFault_next hx).2, State.linkFault_tx_cfg]
  · exact absurd hx (exec_not_next_of_reserved hres)

/-- A move writes the configuration only while RESET is held. -/
theorem MoveEffect.cfg_eq_or_held {m : Move} {s t : State} (h : MoveEffect s t m) : t.cfg = s.cfg ∨ s.held = true := by
  cases h with
  | rxStep _ _ _ hx | txStep _ _ _ _ hx | ctlStep _ _ _ _ hx | closeRunning _ hx => exact .inl (exec_keeps_cfg hx :)
  | configure _ _ hh _ => exact .inr hh
  | rxWait _ _ _ ht | txWait _ _ _ _ ht | ctlIdle _ ht | appendLinkIn _ ht | drainLinkOut _ ht | appendSout _ _ _ ht
  | readModes ht | closeEnded _ ht | releaseEndpoints ht => rw [ht]; exact .inl rfl

theorem configureMove_eq {c : Config} (hc : c.n ≤ 256) (s : State) :
    configureMove c s = if s.held then .next { s with cfg := c } else .refused .configurationChange :=
  if_neg (by simp [Config.wf, hc])

/-- Settles O53: only a configure move writes the configuration, and it is taken only while RESET is held. -/
theorem configurationChangesOnlyUnderReset : Obligations.ConfigurationChangesOnlyUnderReset := by
  unfold Obligations.ConfigurationChangesOnlyUnderReset
  refine ⟨fun s t hstep hne => ?_, fun s c ms ha hc => ?_⟩
  · obtain ⟨ms, n, hnext⟩ := nextMove_same s
    have he := step_effect hstep
    rw [hnext] at he
    exact he.cfg_eq_or_held.resolve_left hne
  · have hstep : step s = configureMove c { s with agenda := ms } := step_cons ha
    rw [hstep, configureMove_eq hc]
    exact ⟨fun hh => by simp [hh], fun hh => by simp [hh]⟩

/-! ### The event log -/

theorem routeInbound_log (s : State) (a : Byte) (p : List Byte) :
    (s.routeInbound a p).log = s.log ∨ ∃ e, (s.routeInbound a p).log = s.log ++ [e] := by
  cases hw : s.w_ans with
  | ok => rw [routeInbound_ok hw]; exact .inl rfl
  | fault k => rw [routeInbound_fault hw]; exact .inr ⟨_, rfl⟩

/-- A step of RX other than IN_DELIVER writes no `sin` and appends at most one record. -/
theorem exec_rx_sin_log {i : Instr} {s t : State} (hi : i.ofRx = true) (hd : i ≠ .inDeliver) (hx : exec i s = .next t) :
    t.sin = s.sin ∧ (t.log = s.log ∨ ∃ e, t.log = s.log ++ [e]) := by
  cases i with
  | inDrop => obtain ⟨b, rest, -, -, -, -, rfl⟩ := exec_inDrop_next hx; exact ⟨rfl, .inl rfl⟩
  | inSof => obtain ⟨b, rest, -, -, -, -, rfl⟩ := exec_inSof_next hx; exact ⟨rfl, .inl rfl⟩
  | inAddr => obtain ⟨b, rest, -, -, -, rfl⟩ := exec_inAddr_next hx; exact ⟨rfl, .inl rfl⟩
  | inLen0 => obtain ⟨b, rest, -, -, -, -, rfl⟩ := exec_inLen0_next hx; exact ⟨rfl, .inr ⟨_, rfl⟩⟩
  | inLen => obtain ⟨b, rest, -, -, -, -, rfl⟩ := exec_inLen_next hx; exact ⟨rfl, .inl rfl⟩
  | inPay => obtain ⟨b, rest, -, -, -, -, -, -, rfl⟩ := exec_inPay_next hx; exact ⟨rfl, .inl rfl⟩
  | inPaylast => obtain ⟨b, rest, -, -, -, -, -, -, rfl⟩ := exec_inPaylast_next hx; exact ⟨rfl, .inl rfl⟩
  | inCrcbad => obtain ⟨b, rest, -, -, -, -, rfl⟩ := exec_inCrcbad_next hx; exact ⟨rfl, .inr ⟨_, rfl⟩⟩
  | inDeliver => exact absurd rfl hd
  | inUnroutable =>
    obtain ⟨b, rest, -, -, -, -, -, rfl⟩ := exec_inUnroutable_next hx
    exact ⟨rfl, .inr ⟨_, rfl⟩⟩
  | rxIncomplete => obtain ⟨-, rfl⟩ := exec_rxIncomplete_next hx; exact ⟨rfl, .inl rfl⟩
  | rxHalt => obtain ⟨-, rfl⟩ := exec_rxHalt_next hx; exact ⟨rfl, .inl rfl⟩
  | _ => cases hi

/-- A step of RX appends at most one record. -/
theorem exec_rx_log {i : Instr} {s t : State} (hi : i.ofRx = true) (hx : exec i s = .next t) :
    t.log = s.log ∨ ∃ e, t.log = s.log ++ [e] := by
  by_cases hd : i = .inDeliver
  · subst hd
    obtain ⟨b, rest, -, -, -, -, -, rfl⟩ := exec_inDeliver_next hx
    exact routeInbound_log { s with link_in := rest } s.rx_addr s.rxPayload
  · exact (exec_rx_sin_log hi hd hx).2

/-- A step of TX appends at most one record. -/
theorem exec_tx_log {i : Instr} {s t : State} (hi : i.ofTx = true) (hx : exec i s = .next t) :
    t.log = s.log ∨ ∃ e, t.log = s.log ++ [e] := by
  rcases exec_tx_kinds hi hx with rfl | rfl | rfl | ⟨b, hsent⟩
  · obtain ⟨a, -, -, -, rfl⟩ := exec_outFetch_next hx; exact .inl rfl
  · obtain ⟨a, -, -, -, rfl⟩ := exec_outSfault_next hx; exact .inr ⟨_, rfl⟩
  · obtain ⟨-, rfl⟩ := exec_txHalt_next hx; exact .inl rfl
  · exact .inl hsent.log

/-- An instruction appends at most one record, or is RESET and empties the log. -/
theorem exec_log {i : Instr} {s t : State} (hx : exec i s = .next t) :
    t.log = s.log ∨ (∃ e, t.log = s.log ++ [e]) ∨ (i = .reset ∧ t.log = []) := by
  rcases instr_kinds i with hrx | htx | hhost | hres
  · exact (exec_rx_log hrx hx).imp_right .inl
  · exact (exec_tx_log htx hx).imp_right .inl
  · fin_cases hhost
    · rw [exec_reset_next hx]; exact .inr (.inr ⟨rfl, rfl⟩)
    · rw [exec_setStop_next hx]; exact .inl rfl
    · rw [(exec_rxLinkFault_next hx).2]; exact .inr (.inl ⟨_, rfl⟩)
    · rw [(exec_txLinkFault_next hx).2]; exact .inr (.inl ⟨_, rfl⟩)
  · exact absurd hx (exec_not_next_of_reserved hres)

/-- Settles O54: the host's changes leave the log, and `exec_log` says what an instruction does to it. -/
theorem stepLogsAtMostOneEvent : Obligations.StepLogsAtMostOneEvent := by
  unfold Obligations.StepLogsAtMostOneEvent
  intro s t hstep
  rcases step_exec_or_host hstep with ⟨i, ms, n, w, p, ans, hi, hx⟩ | hhost
  · rcases exec_log hx with h | h | ⟨hr, h⟩
    · exact .inl h
    · exact .inr (.inl h)
    · exact .inr (.inr ⟨hi hr, h⟩)
  · rw [hhost]; exact .inl rfl

/-! ### Delivery -/

/-- No instruction but IN_DELIVER writes a `sin`. -/
theorem exec_keeps_sin {i : Instr} {s t : State} (hi : i ≠ .inDeliver) (hx : exec i s = .next t) : t.sin = s.sin := by
  rcases instr_kinds i with hrx | htx | hhost | hres
  · exact (exec_rx_sin_log hrx hi hx).1
  · exact (exec_tx_keeps_rx htx hx).sin.symm
  · fin_cases hhost
    · rw [exec_reset_next hx, State.applyReset_sin]
    · rw [exec_setStop_next hx]
    · rw [(exec_rxLinkFault_next hx).2, State.linkFault_rx_sin]
    · rw [(exec_txLinkFault_next hx).2, State.linkFault_tx_sin]
  · exact absurd hx (exec_not_next_of_reserved hres)

/-- IN_DELIVER appends an initial part of the payload to the queue of its address. -/
theorem exec_inDeliver_sin {s t : State} (hx : exec .inDeliver s = .next t) :
    ∃ j, j ≤ s.rx_len.toNat ∧
      t.sin = s.sin.set s.rx_addr.toNat (s.sin.get s.rx_addr.toNat ++ s.rx_buf.upTo j) := by
  obtain ⟨b, rest, -, -, -, -, -, rfl⟩ := exec_inDeliver_next hx
  obtain ⟨k, hk⟩ := routeInbound_sin { s with link_in := rest } s.rx_addr s.rxPayload
  refine ⟨min k s.rx_len.toNat, Nat.min_le_right _ _, hk.trans ?_⟩
  rw [State.rxPayload, Memory.upTo_take]

/-- Settles O55: IN_DELIVER is the one instruction that writes a `sin`, and the host writes none. -/
theorem deliveryNeedsChecksumMatch : Obligations.DeliveryNeedsChecksumMatch := by
  unfold Obligations.DeliveryNeedsChecksumMatch
  intro s t hsin hstep hne
  rcases step_exec_or_host hstep with ⟨i, ms, n, w, p, ans, -, hx⟩ | hhost
  · obtain rfl : i = .inDeliver := by
      by_contra hi
      exact hne (exec_keeps_sin hi hx :)
    obtain ⟨b, rest, hl, he, hst, hb, hn, -⟩ := exec_inDeliver_next hx
    obtain ⟨j, hj, hset⟩ := exec_inDeliver_sin hx
    refine ⟨((rxbEnabled_iff _).1 he).1, hst, hn, ?_, ⟨j, hj, ?_⟩, fun a ha => ?_⟩
    · rw [show s.link_in = b :: rest from hl, hb]
      rfl
    · rw [hset]
      exact Streams.get_set_same hsin
    · rw [hset]
      exact Streams.get_set_other hsin ha
  · exact absurd (by rw [hhost]) hne

end Sys2Proof.Machine
end

section
/-! SUPPORT. The reset state, the decoder's tables, the router and the host's own moves, one statement each. -/

namespace Sys2Proof.Machine

/-! ### Reset and stop -/

/-- Settles O1: the fields of `State.reset`. -/
theorem resetStateHasSpecValues : Obligations.ResetStateHasSpecValues := by
  unfold Obligations.ResetStateHasSpecValues
  exact ⟨rfl, rfl, rfl, rfl, rfl, rfl, rfl⟩

/-- Settles O34: both agents are at their reset control points, where their invariants ask nothing, and every table
is empty. -/
theorem invariantHoldsAtReset : Obligations.InvariantHoldsAtReset where
  config := by decide
  rxMode := by decide
  txMode := by decide
  rx := .of_idle rfl
  tx := .of_idle rfl
  rxBuf := by decide
  txBuf := by decide
  sin := by decide
  sout := by decide
  held _ := ⟨rfl, rfl⟩

/-- Settles O3: code 0x1 is SET_STOP's row, and SET_STOP answers in every state. -/
theorem setStopSetsTheFlagOnly : Obligations.SetStopSetsTheFlagOnly := by
  unfold Obligations.SetStopSetsTheFlagOnly
  exact ⟨ctlCodeIs_of_mem (r := ⟨0x1, 0xF, .setStop⟩) (by decide), fun _ => rfl⟩

/-! ### RXB and TXB steps -/

/-- Settles O12: row 0x83 under 0xE3, met in READ_CHECKSUM by the computed checksum of a frame whose address is below N;
`sin` is changed by one append. -/
theorem inDeliverAppendsPayload : Obligations.InDeliverAppendsPayload := by
  unfold Obligations.InDeliverAppendsPayload
  refine ⟨rxbRowIs_of_mem (r := ⟨0x83, 0xE3, .inDeliver⟩) (by decide), fun s b rest h hsin hst hb hn hw => ?_⟩
  exact ⟨h.takes ((rxbWord_inDeliver s b).2 ⟨hst, hb, hn⟩), _, h.exec_inDeliver hst hb hn hw, rfl,
    Streams.get_set_same hsin, fun _ => Streams.get_set_other hsin⟩

/-- A count of 0 or above the length names no payload element (log 10). -/
theorem payloadIndex_eq_none {len rem : Byte} (h : rem = 0 ∨ len.toNat < rem.toNat) : payloadIndex len rem = none := by
  refine if_neg fun ⟨hpos, hle⟩ => ?_
  rcases h with rfl | hlt
  · exact absurd hpos (by decide)
  · omega

/-- Settles O24: the step of the payload state finds no element, whether its count is 1 or not. -/
theorem payloadCountOutOfRangeFaults : Obligations.PayloadCountOutOfRangeFaults := by
  unfold Obligations.PayloadCountOutOfRangeFaults
  refine ⟨fun s b rest h hst hcount => ?_, fun s hm hst hcount => ?_⟩
  · have hnone := payloadIndex_eq_none hcount
    split
    · next hone =>
      rw [exec, execInPaylast, rxbStep_eq h.byte h.enabled ((rxbWord_inPaylast s b).2 ⟨hst, hone⟩)]
      simp only [hnone]
    · next hne =>
      rw [exec, execInPay, rxbStep_eq h.byte h.enabled ((rxbWord_inPay s b).2 ⟨hst, hne⟩)]
      simp only [hnone]
  · have hnone := payloadIndex_eq_none hcount
    have he := (txByteEnabled_iff s).2 ⟨hm, by simp [hst]⟩
    split
    · next hone => rw [exec, execOutPaylast, txbStep_eq he ((txbWord_outPaylast s).2 ⟨hst, hone⟩), hnone]
    · next hne => rw [exec, execOutPay, txbStep_eq he ((txbWord_outPay s).2 ⟨hst, hne⟩), hnone]

/-! ### Words and codes -/

/-- No CTL row has a code of 7 or above (30_encoding.md R76). -/
theorem decodeCtl_reserved : ∀ k : CtlCode, 7 ≤ k.toNat → decodeCtl k = none := by decide

/-- Settles O30: a reserved code has no row, so neither the decoder nor the move finds a step. -/
theorem reservedCtlCodesAreRefused : Obligations.ReservedCtlCodesAreRefused := by
  unfold Obligations.ReservedCtlCodesAreRefused
  intro s k ms hk ha
  have hnone := decodeCtl_reserved k hk
  have hstep : step s = ctlMove k { s with agenda := ms } := step_cons ha
  exact ⟨by simp only [decode, hnone], by rw [hstep]; simp only [ctlMove, hnone]⟩

/-- Settles O32: the words are read by the tables. -/
theorem writtenOutWordsDecode : Obligations.WrittenOutWordsDecode := by
  unfold Obligations.WrittenOutWordsDecode
  decide

/-- Settles O33: the encoder's word of each instruction is in its row, and the rows cut the words of a format. -/
theorem selectorsRoundTripAndRowsAreDisjoint : Obligations.SelectorsRoundTripAndRowsAreDisjoint := by
  unfold Obligations.SelectorsRoundTripAndRowsAreDisjoint
  refine ⟨fun i => ?_, by decide, by decide⟩
  cases i <;> decide

/-! ### The router -/

/-- Settles O49: the two branches of `resolve`. -/
theorem resolveSplitsAtTableSize : Obligations.ResolveSplitsAtTableSize := by
  unfold Obligations.ResolveSplitsAtTableSize
  exact fun _ _ => ⟨fun h => if_pos h, fun h => if_neg (Nat.not_lt.2 h)⟩

/-! ### Idle agents and the host's moves -/

/-- An idle RX has no step (43_inbound_reader.md R129). -/
theorem rxSelect_idle {s : State} (h : s.rxIdle) : s.rxSelect = none := by
  obtain ⟨-, hpoll, hlink, hstop⟩ := h
  simp [State.rxSelect, State.rxHaltEnabled, State.rxIncompleteEnabled, State.rxbEnabled, State.linkAvail, hpoll, hlink,
    hstop]

/-- An idle TX has no step (60_exceptions.md R172). -/
theorem txSelect_idle {s : State} (h : s.txIdle) : s.txSelect = none := by
  obtain ⟨-, hst, hstop, hempty⟩ := h
  have hnone : s.fetchEndpoint.isSome = false := by
    rw [Bool.eq_false_iff, ne_eq, fetchEndpoint_isSome]
    rintro ⟨a, ha, hpos⟩
    simp [hempty a ha] at hpos
  simp [State.txSelect, State.txHaltEnabled, State.fetchEnabled, State.txByteEnabled, hst, hstop, hnone]

/-- Settles O58: an idle agent selects nothing, and a turn without a selector passes. -/
theorem idleAgentWaits : Obligations.IdleAgentWaits := by
  unfold Obligations.IdleAgentWaits
  refine ⟨fun s ans ms h ha => ?_, fun s p ans ms h ha => ?_⟩
  · have hm : s.rx_mode = Mode.RUNNING := h.1
    exact ⟨rxSelect_idle h, step_rx_waits ha (by simp [hm]) (rxSelect_idle h)⟩
  · have hm : s.tx_mode = Mode.RUNNING := h.1
    exact ⟨txSelect_idle h, step_tx_waits ha (by simp [hm]) (txSelect_idle h)⟩

/-- A CTL code whose step is not enabled changes nothing (log 9). -/
theorem step_ctl_idle {s : State} {k : CtlCode} {ms : List Move} {i : Instr} (ha : s.agenda = .ctl k :: ms)
    (hd : decodeCtl k = some i) (he : s.ctlEnabled i = false) : step s = .next { s with agenda := ms } := by
  have hstep : step s = ctlMove k { s with agenda := ms } := step_cons ha
  rw [hstep, ctlMove, hd]
  simp only [ctlEnabled_agenda, he]
  rfl

/-- Settles O59: the link faults of an ended direction are not enabled, and each data move writes one queue. -/
theorem hostActionsTouchOnlyTheirOwn : Obligations.HostActionsTouchOnlyTheirOwn := by
  unfold Obligations.HostActionsTouchOnlyTheirOwn
  refine ⟨fun s ms ha hm => ?_, fun s ms ha hm => ?_, fun s bs ms ha => step_cons ha, fun s c ms ha => step_cons ha,
    fun s a bs ms ha hn hsout => ?_⟩
  · exact step_ctl_idle (i := .rxLinkFault) ha (by decide) (beq_eq_false_iff_ne.2 hm)
  · exact step_ctl_idle (i := .txLinkFault) ha (by decide) (beq_eq_false_iff_ne.2 hm)
  · exact ⟨_, (step_cons ha).trans (if_pos hn), rfl, Streams.get_set_same hsout,
      fun _ => Streams.get_set_other hsout⟩

end Sys2Proof.Machine
end
